-- ==== Sys2Proof/Word.lean ====
section
/-! DEFINITION. The byte and the 16-bit host word of GVCF, and byte sequences (spec 00_scope R9, R10). -/

namespace Sys2Proof

/-- A byte, an integer 0 to 255 (R9). -/
abbrev Byte := BitVec 8

/-- The data word of a host access, and the host address (R60, R62). -/
abbrev Word := BitVec 16

/-- A byte sequence; its head is the first byte transmitted on the wire (R10). -/
abbrev Bytes := List Byte

end Sys2Proof
end

