-- ==== Sys2Proof/Config.lean ====
section
/-! DEFINITION. What is fixed for one machine: the document's constants (R6), the parameter FRAME_MAX (R7), the address map's
bases (R61), the free bytes of never-written buffer cells (R45), and the command-code table the frames carry (R106). -/

namespace Sys2Proof

/-- The implementation parameter of R7. FRAME_MAX is OPEN: every statement of this model is about all its values.
It is carried in `State` because `step` has no other argument (log 1). -/
structure Config where
  /-- FRAME_MAX, the capacity of FBUF in bytes; `Config.Wf` says 13 to 4096. -/
  frameMax : Nat
  deriving DecidableEq, Repr

/-- ARG_MAX = FRAME_MAX - 13, the capacity of ABUF (R7). -/
def Config.argMax (c : Config) : Nat := c.frameMax - 13

/-- The value of FRAME_MAX in every worked example of the spec (R7); the reset state uses it, DESIGN CHOICE (log 1). -/
def Config.worked : Config := { frameMax := 256 }

/-- LEAD, `~`, the first byte of a request frame (R6). -/
abbrev Config.lead : Byte := 0x7E#8
/-- SEP, one space (R6). -/
abbrev Config.sep : Byte := 0x20#8
/-- TERM, carriage return (R6). -/
abbrev Config.term : Byte := 0x0D#8
/-- ADDR_MAX, the largest bus address (R6). -/
abbrev Config.addrMax : Nat := 99

/-- The host address of FBUF[0] (R61). -/
abbrev Config.fbufBase : Nat := 0x1000
/-- The host address of ABUF[0] (R61). -/
abbrev Config.abufBase : Nat := 0x2000

/-- FREE VALUE (R45, D39, M3; log 2): the byte that the buffer cell at a host address holds from a reset until it is
written. The first argument numbers the reset's draw (log 3). It has no body, so a theorem holds for every draw. -/
opaque Config.unwrittenByte : Nat → Nat → Byte

/-- The command-code table of R106: data for the software around the block. No operation reads it. -/
def Config.commandCodes : List (Byte × String) :=
  [(0x01#8, "Read Model"), (0x02#8, "Read Version"), (0x0A#8, "Read Current"), (0x0B#8, "Read Pressure"),
   (0x0C#8, "Read Voltage"), (0x0D#8, "Get Pump Status"), (0x11#8, "Get Pump Size")]

end Sys2Proof
end

