-- ==== Sys2Proof/Syntax.lean ====
section
/-! DEFINITION. What can be written down: the ten operations (R100, opcode_table.json), the sixteen register names (R23), host
accesses and the reset event (R104, R240), the host notation (R104, R105), and the values of the document's data model (R13,
R14). -/

namespace Sys2Proof

/-- The operations, one constructor per row of opcode_table.json. An operation has no operand field (R100): every operand is
in a register or a buffer. -/
inductive Instr where
  /-- R200 -/
  | nop
  /-- R126, clear the accumulator -/
  | cclr
  /-- R127, accumulate one byte -/
  | cacc
  /-- R128, checksum of the current byte sequence -/
  | csum
  /-- R129, verify the current byte sequence against CLAIM -/
  | cvfy
  /-- R153, encode a request frame -/
  | encq
  /-- R176, decode a response frame -/
  | decr
  /-- R154, encode a success response frame -/
  | encok
  /-- R155, encode an error response frame -/
  | encer
  /-- R182, decode a request frame -/
  | decq
  deriving DecidableEq, Repr

/-- The registers by name (R23). `cstr` is a view with no storage (R31). -/
inductive Reg where
  | cmd | flags | fault | acc | cstr | claim | din | len | alen | addr | code | raddr | rcode | rerr | poff | plen
  deriving DecidableEq, Repr

/-- The two buffers (R41, R42). -/
inductive Buffer where
  | fbuf | abuf
  deriving DecidableEq, Repr

/-- What may happen to the block from outside, one at a time: a host read or write, the triples (kind, address, data) of R104,
or the environment's reset (R240). -/
inductive HostEvent where
  /-- (R, address, -) -/
  | read (addr : Word)
  /-- (W, address, data) -/
  | write (addr : Word) (data : Word)
  /-- reset, applied between two host accesses (R240) -/
  | reset
  deriving DecidableEq, Repr

/-- One line of the host notation (R104). -/
inductive Line where
  /-- `WR <reg>, <value>` -/
  | wr (r : Reg) (v : Word)
  /-- `RD <reg>` -/
  | rd (r : Reg)
  /-- `WB FBUF[i], byte` or `WB ABUF[i], byte` -/
  | wb (b : Buffer) (i : Nat) (v : Word)
  /-- `RB FBUF[i]` or `RB ABUF[i]` -/
  | rb (b : Buffer) (i : Nat)
  /-- `OP <mnemonic>` -/
  | op (i : Instr)
  deriving DecidableEq, Repr

/-- A pseudo-line (R105). -/
inductive PseudoLine where
  /-- `LDF "<string>"` -/
  | ldf (s : Bytes)
  /-- `LDA "<string>"` -/
  | lda (s : Bytes)
  /-- `RDF = "<string>"`; the string is what the rules give, the expansion reads as many cells -/
  | rdf (s : Bytes)
  /-- `CSTREAM "<string>"` -/
  | cstream (s : Bytes)
  deriving DecidableEq, Repr

/-- The faults of the function layer, `Fault(k)` (R13). -/
inductive FrameFault where
  /-- bus address outside 0 to 99 (R150) -/
  | invalidBusAddress
  /-- stages 1, 2 and 4 of a decoder (R170, R171, R173, R178) -/
  | malformedFrame
  /-- stage 3 of a decoder (R172) -/
  | checksumMismatch
  deriving DecidableEq, Repr

/-- ResponseOutcome of the document (R14): the value of `dec_resp`. An error code is the two characters received. -/
inductive ResponseOutcome where
  | ok (busAddress : Nat) (payload : Bytes)
  | deviceError (busAddress : Nat) (code0 code1 : Byte)
  deriving DecidableEq, Repr

/-- What `dec_req` returns (R178): the bus address and the Command. -/
structure Request where
  busAddress : Nat
  code : Byte
  argument : Bytes
  deriving DecidableEq, Repr

end Sys2Proof
end

