-- ==== Sys2Proof/Decode.lean ====
section
/-! DEFINITION. The encoding of the command word (R100 to R102) and of the host notation (R104, R105): the decoder, then the
encoders. A command word is the 16-bit data of one host write; it is stored in no memory and has no byte order (R63, log 13). -/

namespace Sys2Proof

/-- Why a command word selects no operation. -/
inductive DecodeError where
  /-- a value 0x000A to 0xFFFF (R101); writing it to CMD records IllegalCommand (R214) -/
  | illegalCommand (v : Word)
  deriving DecidableEq, Repr

/-- The operation selected by the value written to CMD: all 16 bits take part (R37, R100, mask 0xFFFF). -/
def decode (v : Word) : Except DecodeError Instr :=
  match v.toNat with
  | 0x0000 => .ok .nop
  | 0x0001 => .ok .cclr
  | 0x0002 => .ok .cacc
  | 0x0003 => .ok .csum
  | 0x0004 => .ok .cvfy
  | 0x0005 => .ok .encq
  | 0x0006 => .ok .decr
  | 0x0007 => .ok .encok
  | 0x0008 => .ok .encer
  | 0x0009 => .ok .decq
  | _ => .error (.illegalCommand v)

/-- The CMD value of an operation (R100). -/
def encode : Instr → Word
  | .nop => 0x0000#16
  | .cclr => 0x0001#16
  | .cacc => 0x0002#16
  | .csum => 0x0003#16
  | .cvfy => 0x0004#16
  | .encq => 0x0005#16
  | .decr => 0x0006#16
  | .encok => 0x0007#16
  | .encer => 0x0008#16
  | .decq => 0x0009#16

/-- The command word whose low `nbits` bits are those of `w`, the others 0. -/
def commandWord (nbits w : Nat) : Word := BitVec.ofNat 16 (w % 2 ^ nbits)

/-- The operation the decoder reads from a table row's bits; a command word has one length, 16 bits (R102). -/
def decodeTableWord (nbits w : Nat) : Option Instr :=
  if nbits ≤ 16 then (decode (commandWord nbits w)).toOption else none

/-- The number of a register, which is its host address (R23, R61). -/
def Reg.number : Reg → Nat
  | .cmd => 0x0
  | .flags => 0x1
  | .fault => 0x2
  | .acc => 0x3
  | .cstr => 0x4
  | .claim => 0x5
  | .din => 0x6
  | .len => 0x7
  | .alen => 0x8
  | .addr => 0x9
  | .code => 0xA
  | .raddr => 0xB
  | .rcode => 0xC
  | .rerr => 0xD
  | .poff => 0xE
  | .plen => 0xF

/-- The register of a number (R23). -/
def Reg.ofNumber : Nat → Option Reg
  | 0x0 => some .cmd
  | 0x1 => some .flags
  | 0x2 => some .fault
  | 0x3 => some .acc
  | 0x4 => some .cstr
  | 0x5 => some .claim
  | 0x6 => some .din
  | 0x7 => some .len
  | 0x8 => some .alen
  | 0x9 => some .addr
  | 0xA => some .code
  | 0xB => some .raddr
  | 0xC => some .rcode
  | 0xD => some .rerr
  | 0xE => some .poff
  | 0xF => some .plen
  | _ => none

/-- The host address of a register (R61). -/
def Reg.address (r : Reg) : Word := BitVec.ofNat 16 r.number

/-- The host address of a buffer's cell 0 (R61). -/
def Buffer.base : Buffer → Nat
  | .fbuf => Config.fbufBase
  | .abuf => Config.abufBase

/-- The host address of a buffer cell (R61). -/
def Buffer.address (b : Buffer) (i : Nat) : Word := BitVec.ofNat 16 (b.base + i)

/-- The triple of a line of the host notation (R104). -/
def Line.encode : Line → HostEvent
  | .wr r v => .write r.address v
  | .rd r => .read r.address
  | .wb b i v => .write (b.address i) v
  | .rb b i => .read (b.address i)
  | .op i => .write Reg.cmd.address (Sys2Proof.encode i)

/-- One `WB` line per byte, from cell `i` on (R105). -/
def bufferWrites (b : Buffer) : Nat → Bytes → List Line
  | _, [] => []
  | i, x :: xs => .wb b i (x.setWidth 16) :: bufferWrites b (i + 1) xs

/-- One `RB` line per byte, from cell `i` on (R105). -/
def bufferReads (b : Buffer) : Nat → Bytes → List Line
  | _, [] => []
  | i, _ :: xs => .rb b i :: bufferReads b (i + 1) xs

/-- One `WR DIN` and one `OP CACC` per byte (R105). -/
def streamLines : Bytes → List Line
  | [] => []
  | x :: xs => .wr .din (x.setWidth 16) :: .op .cacc :: streamLines xs

/-- The expansion of a pseudo-line (R105). -/
def PseudoLine.expand : PseudoLine → List Line
  | .ldf s => bufferWrites .fbuf 0 s ++ [.wr .len (BitVec.ofNat 16 s.length)]
  | .lda s => bufferWrites .abuf 0 s ++ [.wr .alen (BitVec.ofNat 16 s.length)]
  | .rdf s => .rd .len :: bufferReads .fbuf 0 s
  | .cstream s => .op .cclr :: streamLines s

/-- The triples of a pseudo-line. -/
def PseudoLine.encode (p : PseudoLine) : List HostEvent := p.expand.map Line.encode

end Sys2Proof
end

