-- ==== Sys2Proof/Machine/State.lean ====
section
/-! DEFINITION. The state of the block as plain data (R20 to R45), the reasons a step could stop, and the reset state (R44, R45,
R240). The fields `cfg`, `draw`, `input` and `reply` are the model's own, not the spec's (logs 1, 3, 4). -/

namespace Sys2Proof.Machine

/-- The three bits of FLAGS (R38). -/
structure Flags where
  /-- bit 0: the result registers hold the result of a decode that succeeded, and no encoder has run since -/
  valid : Bool
  /-- bit 1, MATCH: the result of the last checksum comparison -/
  matched : Bool
  /-- bit 2, KIND: false for `Ok` and for a decoded request, true for `DeviceError` -/
  kind : Bool
  deriving DecidableEq, Repr

/-- The values of REG.FAULT by name (R39); codes 5 to 7 are never produced. `FaultCode.number` gives the numbers. -/
inductive FaultCode where
  | none | invalidBusAddress | malformedFrame | checksumMismatch | illegalCommand
  deriving DecidableEq, Repr

/-- What the last host access returned (R62, R67). -/
inductive Reply where
  /-- no access since reset -/
  | idle
  /-- a completed write -/
  | hostOk
  /-- a completed read and its value -/
  | hostData (v : Word)
  /-- an unmapped address: no value, nothing changed. No step leaves it: the model refuses such an access (R67, log 5) -/
  | hostErr
  deriving DecidableEq, Repr

/-- The buffer cells that have been written since reset, keyed by host address (R60, R61), addresses strictly rising. A cell
that is not listed has not been written: it reads as `Config.unwrittenByte` (R45, log 2). -/
abbrev Memory := List Host.Cell

/-- The one form of a memory: addresses strictly rising. An unlisted cell has no value of its own to list, so no entry can
repeat one, and memories that list the same bytes are equal data. -/
abbrev Memory.wf (m : Memory) : Prop := m.Pairwise (fun p q => p.1 < q.1)

/-- The whole state. -/
structure State where
  /-- CMD, register 0x0 (R37) -/
  cmd : Word
  /-- FLAGS, register 0x1 (R38) -/
  flags : Flags
  /-- FAULT, register 0x2 (R39) -/
  fault : FaultCode
  /-- ACC, register 0x3 (R30); CSTR, register 0x4, is a view of it (R31) -/
  acc : Byte
  /-- CLAIM, register 0x5 (R24) -/
  claim : Word
  /-- DIN, register 0x6 (R25) -/
  din : Byte
  /-- LEN, register 0x7 (R26) -/
  len : BitVec 13
  /-- ALEN, register 0x8 (R27) -/
  alen : BitVec 13
  /-- ADDR, register 0x9 (R28) -/
  addr : Word
  /-- CODE, register 0xA (R29) -/
  code : Byte
  /-- RADDR, register 0xB (R32) -/
  raddr : BitVec 7
  /-- RCODE, register 0xC (R33) -/
  rcode : Byte
  /-- RERR, register 0xD (R34) -/
  rerr : Word
  /-- POFF, register 0xE (R35) -/
  poff : BitVec 13
  /-- PLEN, register 0xF (R36) -/
  plen : BitVec 13
  /-- FBUF and ABUF (R41, R42) -/
  mem : Memory
  /-- the model's own: the parameter FRAME_MAX, which no step writes (R7, log 1) -/
  cfg : Config
  /-- the model's own: which draw of the unspecified bytes of R45 is in force (log 3) -/
  draw : Nat
  /-- the model's own: the host accesses and resets still to come (R251, log 4) -/
  input : List HostEvent
  /-- the model's own: what the last host access returned (R62, log 4) -/
  reply : Reply
  deriving DecidableEq, Repr

/-- Reasons for the machine to stop with a fault. There are none: every operation completes and records its fault in REG.FAULT
(R13, R215, R218; log 8). No step raises one. -/
inductive Fault where
  deriving DecidableEq, Repr

/-- Reasons for the model to say nothing more: an access it refuses, or an operation it has no meaning for. -/
inductive Refusal where
  /-- A host read or write of an address outside the map (R61). Raised by `hostRead` and `hostWrite`, as R67 asks of a model: the
  access has no effect and nothing is said past it. Safe. What the block itself holds after it is `afterEvent` (log 5). -/
  | unmappedAccess (addr : Word)
  /-- The operation has no meaning in this model yet. Raised by an arm of `exec` only, and by none of them now; safe: nothing
  can be proved of what the operation does. -/
  | notModelled (mnemonic : String)
  deriving DecidableEq, Repr

/-- The outcome of one step of this machine. -/
abbrev StepResult := Host.Outcome State Fault Refusal

/-- The state right after reset, for any value of the parameter and any draw of the buffer bytes: every register at the value of
R23, R38, R39 (all zero, R44), no cell written (R45). -/
def State.resetWith (cfg : Config) (draw : Nat) : State where
  cmd := 0x0000#16
  flags := { valid := false, matched := false, kind := false }
  fault := .none
  acc := 0x00#8
  claim := 0x0000#16
  din := 0x00#8
  len := 0#13
  alen := 0#13
  addr := 0#16
  code := 0x00#8
  raddr := 0#7
  rcode := 0x00#8
  rerr := 0x0000#16
  poff := 0#13
  plen := 0#13
  mem := []
  cfg := cfg
  draw := draw
  input := []
  reply := .idle

/-- The machine right after reset (R44, R45, R240), with the spec's worked value of FRAME_MAX (log 1) and draw 0 (log 3). -/
def State.reset : State := State.resetWith Config.worked 0

end Sys2Proof.Machine
end

