-- ==== Sys2Proof/Machine/Flags.lean ====
section
/-! DEFINITION. FLAGS and FAULT as the host reads them, and every flag computation of the operations (R38, R39, R129, R156, R176,
R182, R217). -/

namespace Sys2Proof.Machine

/-- FLAGS as a host read returns it: VALID bit 0, MATCH bit 1, KIND bit 2, bits 15 to 3 zero (R38). -/
def Flags.word (f : Flags) : Word :=
  BitVec.ofNat 16 ((if f.valid then 1 else 0) + (if f.matched then 2 else 0) + (if f.kind then 4 else 0))

/-- The code of REG.FAULT (R39). -/
def FaultCode.number : FaultCode → Nat
  | .none => 0
  | .invalidBusAddress => 1
  | .malformedFrame => 2
  | .checksumMismatch => 3
  | .illegalCommand => 4

/-- CVFY (R129): MATCH takes the comparison's result, VALID and KIND keep. -/
def Flags.afterVerify (result : Bool) (f : Flags) : Flags := { f with matched := result }

/-- A successful encoder (R156): VALID and KIND to 0, MATCH keeps. -/
def Flags.afterEncode (f : Flags) : Flags := { f with valid := false, kind := false }

/-- A successful decode (R176, R182): MATCH and VALID to 1, KIND the tag of the outcome. -/
def Flags.afterDecode (kind : Bool) : Flags := { valid := true, matched := true, kind := kind }

/-- A faulting decode (R217): VALID and KIND to 0, MATCH says whether stage 3 was reached and passed. -/
def Flags.afterDecodeFault (stage3Passed : Bool) : Flags := { valid := false, matched := stage3Passed, kind := false }

end Sys2Proof.Machine
end

