-- ==== Sys2Proof/Machine/Operands.lean ====
section
/-! DEFINITION. Field assembly and parsing (R88 to R92), the byte-sequence functions of R10, and the packing of two characters
in a register (R63). The operand forms of the operations themselves (R93) are `State.frame`, `State.operand` and the registers. -/

namespace Sys2Proof.Machine

/-- `dec2` (R88): the tens digit then the units digit. Every caller checks `a <= 99` first. -/
def dec2 (a : Nat) : Bytes := [BitVec.ofNat 8 (0x30 + a / 10), BitVec.ofNat 8 (0x30 + a % 10)]

/-- The sixteen upper-case digits `0` to `9`, `A` to `F` (R89), by value. -/
def hexDigit (d : Nat) : Byte := if d < 10 then BitVec.ofNat 8 (0x30 + d) else BitVec.ofNat 8 (0x41 + (d - 10))

/-- `hex2` (R89): the high nibble then the low nibble, upper case, zero-padded. -/
def hex2 (v : Byte) : Bytes := [hexDigit (v.toNat / 16), hexDigit (v.toNat % 16)]

/-- `isdig` (R90). -/
def isDig (b : Byte) : Bool := decide (0x30 ≤ b.toNat ∧ b.toNat ≤ 0x39)

/-- `digval` (R90), for a byte that satisfies `isDig`. -/
def digVal (b : Byte) : Nat := b.toNat - 0x30

/-- `parse_dec2` (R90): exactly two decimal digits. -/
def parseDec2 : Bytes → Option Nat
  | [d0, d1] => if isDig d0 && isDig d1 then some (10 * digVal d0 + digVal d1) else none
  | _ => none

/-- `ishex` (R91): a hexadecimal digit of either case. -/
def isHex (b : Byte) : Bool :=
  decide ((0x30 ≤ b.toNat ∧ b.toNat ≤ 0x39) ∨ (0x41 ≤ b.toNat ∧ b.toNat ≤ 0x46) ∨ (0x61 ≤ b.toNat ∧ b.toNat ≤ 0x66))

/-- `hexval` (R91), for a byte that satisfies `isHex`. -/
def hexVal (b : Byte) : Nat :=
  if b.toNat ≤ 0x39 then b.toNat - 0x30
  else if b.toNat ≤ 0x46 then b.toNat - 0x41 + 10
  else b.toNat - 0x61 + 10

/-- `parse_hex2` (R91): exactly two hexadecimal digits, an integer 0 to 255. -/
def parseHex2 : Bytes → Option Byte
  | [h0, h1] => if isHex h0 && isHex h1 then some (BitVec.ofNat 8 (16 * hexVal h0 + hexVal h1)) else none
  | _ => none

/-- `fold` (R92): `a` to `f` onto `A` to `F`, every other byte alone. -/
def fold (b : Byte) : Byte := if 0x61 ≤ b.toNat ∧ b.toNat ≤ 0x66 then b - 0x20#8 else b

/-- `first(s, b)` (R10): the least index that holds `b`. -/
def firstIdx (b : Byte) : Bytes → Option Nat
  | [] => none
  | x :: xs => if x = b then some 0 else (firstIdx b xs).map (· + 1)

/-- `last(s, b)` (R10): the greatest index that holds `b`. -/
def lastIdx (b : Byte) : Bytes → Option Nat
  | [] => none
  | x :: xs =>
    match lastIdx b xs with
    | some k => some (k + 1)
    | none => if x = b then some 0 else none

/-- `split(s, b)` (R10): the sub-sequences between occurrences of `b`, one more than there are occurrences. -/
def splitAt (b : Byte) : Bytes → List Bytes
  | [] => [[]]
  | x :: xs =>
    if x = b then [] :: splitAt b xs
    else
      match splitAt b xs with
      | [] => [[x]]
      | t :: ts => (x :: t) :: ts

/-- `join(L, b)` (R10): one `b` between consecutive elements. -/
def joinWith (b : Byte) : List Bytes → Bytes
  | [] => []
  | [t] => t
  | t :: u :: ts => t ++ b :: joinWith b (u :: ts)

/-- Two characters in a 16-bit register, the earlier one in bits 15 to 8 (R63). -/
def pack2 (c0 c1 : Byte) : Word := c0 ++ c1

/-- The earlier character of a two-character register, bits 15 to 8 (R63). -/
def char0 (w : Word) : Byte := w.extractLsb' 8 8

/-- The later character of a two-character register, bits 7 to 0 (R63). -/
def char1 (w : Word) : Byte := w.extractLsb' 0 8

end Sys2Proof.Machine
end

