-- ==== Sys2Proof/Machine/Ops.lean ====
section
/-! DEFINITION. The shared operations over the buffers and the registers, recording a fault (the block's form of taking an
exception, R215, R222) and completing without one, and reset as an event (R240). -/

namespace Sys2Proof.Machine

/-- The byte listed at an address, if any. -/
def Memory.read : Memory → Nat → Option Byte
  | [], _ => none
  | (k, b) :: m, a => if k = a then some b else Memory.read m a

/-- Lists byte `b` at address `a`, keeping addresses rising. -/
def Memory.write : Memory → Nat → Byte → Memory
  | [], a, b => [(a, b)]
  | (k, c) :: m, a, b =>
    if a < k then (a, b) :: (k, c) :: m
    else if a = k then (a, b) :: m
    else (k, c) :: Memory.write m a b

/-- Lists a byte sequence at consecutive addresses from `a` on. -/
def Memory.writeSeq (m : Memory) (a : Nat) : Bytes → Memory
  | [] => m
  | b :: bs => Memory.writeSeq (m.write a b) (a + 1) bs

/-- The byte a buffer cell holds, by host address: the byte last written to it, else the unspecified byte it has held since
reset (R41, R42, R45). -/
def State.cell (s : State) (a : Nat) : Byte := (s.mem.read a).getD (Config.unwrittenByte s.draw a)

/-- `n` cells from host address `a` on, as a byte sequence. -/
def State.cells (s : State) : Nat → Nat → Bytes
  | _, 0 => []
  | a, n + 1 => s.cell a :: State.cells s (a + 1) n

/-- The current byte sequence FBUF[0..LEN-1] (R26, R41). -/
def State.frame (s : State) : Bytes := s.cells Config.fbufBase s.len.toNat

/-- The argument or payload ABUF[0..ALEN-1] (R27, R42). -/
def State.operand (s : State) : Bytes := s.cells Config.abufBase s.alen.toNat

/-- FBUF[i] <- r[i] for every byte of a frame, and LEN <- its length (R156); cells from the length on keep their values. -/
def State.storeFrame (r : Bytes) (s : State) : State :=
  { s with mem := s.mem.writeSeq Config.fbufBase r, len := BitVec.ofNat 13 r.length }

/-- The result registers cleared, as a faulting decode and a successful encoder leave them (R156, R217). -/
def State.clearResults (s : State) : State :=
  { s with raddr := 0#7, rcode := 0x00#8, rerr := 0x0000#16, poff := 0#13, plen := 0#13 }

/-- Taking an exception: REG.FAULT takes the fault's code, nothing is saved, no control flow changes (R215, R219, R222). -/
def State.raise (f : FaultCode) (s : State) : State := { s with fault := f }

/-- Completing without a fault: REG.FAULT <- 0, which also takes back the code an earlier operation left (R39, R218, R222). -/
def State.complete (s : State) : State := { s with fault := .none }

/-- The register code of a function-layer fault (R39, R210). -/
def faultCodeOf : FrameFault → FaultCode
  | .invalidBusAddress => .invalidBusAddress
  | .malformedFrame => .malformedFrame
  | .checksumMismatch => .checksumMismatch

/-- IllegalCommand (R214): CMD already holds the value written; FAULT <- 4 and nothing else changes. -/
def illegalCommand (s : State) : State := s.raise .illegalCommand

/-- Reset as an event of the environment (R240): every register at its reset value, the buffers neither kept nor cleared but
drawn anew (R45, log 3). The parameter and the host's remaining accesses are not the block's (R21). -/
def State.applyReset (s : State) : State := { State.resetWith s.cfg (s.draw + 1) with input := s.input }

end Sys2Proof.Machine
end

