-- ==== Sys2Proof/Machine/Checksum.lean ====
section
/-! DEFINITION. The checksum engine: the functions csum, compute, verify (R120 to R122) and the operations CCLR, CACC, CSUM, CVFY
(R126 to R129). -/

namespace Sys2Proof.Machine

/-- `csum` (R120): the sum of the byte values modulo 256. -/
def csum : Bytes → Byte
  | [] => 0#8
  | b :: s => b + csum s

/-- `compute` (R121). -/
def compute (s : Bytes) : Bytes := hex2 (csum s)

/-- `verify` (R122): recomputes and compares case-insensitively; false unless the claim has two bytes. -/
def verify (s : Bytes) : Bytes → Bool
  | [c0, c1] =>
    fold c0 == hexDigit ((csum s).toNat / 16) && fold c1 == hexDigit ((csum s).toNat % 16)
  | _ => false

/-- CCLR (R126). -/
def execCclr (s : State) : StepResult := .next ({ s with acc := 0#8 }).complete

/-- CACC (R127): ACC + DIN modulo 256, DIN unchanged. -/
def execCacc (s : State) : StepResult := .next ({ s with acc := s.acc + s.din }).complete

/-- CSUM (R128): the previous ACC is discarded. -/
def execCsum (s : State) : StepResult := .next ({ s with acc := csum s.frame }).complete

/-- CVFY (R129): a false comparison is a value, not a fault. -/
def execCvfy (s : State) : StepResult :=
  .next ({ s with
    acc := csum s.frame
    flags := s.flags.afterVerify (verify s.frame [char0 s.claim, char1 s.claim]) }).complete

end Sys2Proof.Machine
end

