-- ==== Sys2Proof/Machine/FrameEncode.lean ====
section
/-! DEFINITION. The frame formats (R80 to R89), the encoders enc_req, enc_ok, enc_er (R150 to R152), and the operations ENCQ, ENCOK,
ENCER (R153 to R156). -/

namespace Sys2Proof.Machine

/-- An optional field with its separator: nothing when it is empty (R81, R82). -/
def optionalField : Bytes → Bytes
  | [] => []
  | g => Config.sep :: g

/-- The status token `OK` (R14, R82). -/
def tokenOk : Bytes := [0x4F#8, 0x4B#8]
/-- The status token `ER` (R14, R83). -/
def tokenEr : Bytes := [0x45#8, 0x52#8]
/-- The literal `00` of a success response (R82, R85). -/
def statusZero : Bytes := [0x30#8, 0x30#8]

/-- `prefix_req` (R81). -/
def prefixReq (a : Nat) (c : Byte) (g : Bytes) : Bytes :=
  [Config.lead] ++ dec2 a ++ [Config.sep] ++ hex2 c ++ optionalField g ++ [Config.sep]

/-- `prefix_ok` (R82). -/
def prefixOk (a : Nat) (p : Bytes) : Bytes :=
  dec2 a ++ [Config.sep] ++ tokenOk ++ [Config.sep] ++ statusZero ++ optionalField p ++ [Config.sep]

/-- `prefix_er` (R83). -/
def prefixEr (a : Nat) (e : Byte) : Bytes :=
  dec2 a ++ [Config.sep] ++ tokenEr ++ [Config.sep] ++ hex2 e ++ [Config.sep]

/-- A prefix closed by its checksum field and the terminator (R80, R86). -/
def closeFrame (pre : Bytes) : Bytes := pre ++ hex2 (csum pre) ++ [Config.term]

/-- `frame_req` (R81). -/
def frameReq (a : Nat) (c : Byte) (g : Bytes) : Bytes := closeFrame (prefixReq a c g)
/-- `frame_ok` (R82). -/
def frameOk (a : Nat) (p : Bytes) : Bytes := closeFrame (prefixOk a p)
/-- `frame_er` (R83). -/
def frameEr (a : Nat) (e : Byte) : Bytes := closeFrame (prefixEr a e)

/-- `enc_req` (R150). -/
def encReq (a : Nat) (c : Byte) (g : Bytes) : Except FrameFault Bytes :=
  if a > Config.addrMax then .error .invalidBusAddress else .ok (frameReq a c g)

/-- `enc_ok` (R151). -/
def encOk (a : Nat) (p : Bytes) : Except FrameFault Bytes :=
  if a > Config.addrMax then .error .invalidBusAddress else .ok (frameOk a p)

/-- `enc_er` (R152). -/
def encEr (a : Nat) (e : Byte) : Except FrameFault Bytes :=
  if a > Config.addrMax then .error .invalidBusAddress else .ok (frameEr a e)

/-- The common effect of the three encoder operations (R156, R216). ACC takes the checksum of `r[0..n-4]`. -/
def applyEncoder (r : Except FrameFault Bytes) (s : State) : State :=
  match r with
  | .error f => s.raise (faultCodeOf f)
  | .ok frame =>
    ({ (s.storeFrame frame).clearResults with
      acc := csum (frame.take (frame.length - 3))
      flags := s.flags.afterEncode }).complete

/-- ENCQ (R153): ADDR, CODE, ABUF[0..ALEN-1]. -/
def execEncq (s : State) : StepResult := .next (applyEncoder (encReq s.addr.toNat s.code s.operand) s)

/-- ENCOK (R154): ADDR, ABUF[0..ALEN-1]; CODE is not read. -/
def execEncok (s : State) : StepResult := .next (applyEncoder (encOk s.addr.toNat s.operand) s)

/-- ENCER (R155): ADDR, CODE; ALEN and ABUF are not read. -/
def execEncer (s : State) : StepResult := .next (applyEncoder (encEr s.addr.toNat s.code) s)

end Sys2Proof.Machine
end

