-- ==== Sys2Proof/Machine/FrameDecode.lean ====
section
/-! DEFINITION. The frame decoders: the stages (R170 to R173, R178), their token forms (R174, R179), dec_resp and dec_req (R175,
R180), and the operations DECR, DECQ (R176, R182, R217). -/

namespace Sys2Proof.Machine

/-- Stage 1 (R170): the body of a sequence whose first terminator is its last byte; none is MalformedFrame. -/
def frameBody (raw : Bytes) : Option Bytes :=
  if raw = [] then none
  else if firstIdx Config.term raw ≠ some (raw.length - 1) then none
  else some raw.dropLast

/-- The parts stage 2 finds in a body (R171). -/
structure BodyParts where
  /-- `pre`: up to and including the last separator -/
  pre : Bytes
  /-- `cl`: the claimed checksum field after it -/
  claimed : Bytes
  /-- `H`: every field before the checksum field, without the last separator -/
  fields : Bytes
  deriving DecidableEq, Repr

/-- Stage 2 (R171): the checksum field is found from the right; no separator is MalformedFrame. -/
def splitBody (body : Bytes) : Option BodyParts :=
  match lastIdx Config.sep body with
  | none => none
  | some k => some { pre := body.take (k + 1), claimed := body.drop (k + 1), fields := body.take k }

/-- What a decoder leaves: its result, what stage 3 puts in ACC if it was reached, and whether stage 3 passed (R172, R217). -/
structure DecodeRun (α : Type) where
  result : Except FrameFault α
  acc : Option Byte
  stage3Passed : Bool

/-- Stages 1, 2, 3 and then the field stage given, the first failing stage giving the result (R172, R175, R180, R220). -/
def runStages {α : Type} (fieldStage : Bytes → Except FrameFault α) (raw : Bytes) : DecodeRun α :=
  match frameBody raw with
  | none => { result := .error .malformedFrame, acc := none, stage3Passed := false }
  | some body =>
    match splitBody body with
    | none => { result := .error .malformedFrame, acc := none, stage3Passed := false }
    | some parts =>
      if parts.claimed.length ≠ 2 ∨ verify parts.pre parts.claimed = false then
        { result := .error .checksumMismatch, acc := some (csum parts.pre), stage3Passed := false }
      else { result := fieldStage parts.fields, acc := some (csum parts.pre), stage3Passed := true }

/-- Stage 4 of `dec_resp` (R173), on the positions of the fields `H`. -/
def respFields : Bytes → Except FrameFault ResponseOutcome
  | d0 :: d1 :: h2 :: t0 :: t1 :: h5 :: c0 :: c1 :: rest =>
    match parseDec2 [d0, d1] with
    | none => .error .malformedFrame
    | some a =>
      if h2 ≠ Config.sep ∨ h5 ≠ Config.sep then .error .malformedFrame
      else if [t0, t1] = tokenEr then
        if rest ≠ [] then .error .malformedFrame
        else if !isHex c0 || !isHex c1 then .error .malformedFrame
        else .ok (.deviceError a c0 c1)
      else if [t0, t1] = tokenOk then
        if [c0, c1] ≠ statusZero then .error .malformedFrame
        else
          match rest with
          | [] => .ok (.ok a [])
          | h8 :: payload => if h8 ≠ Config.sep then .error .malformedFrame else .ok (.ok a payload)
      else .error .malformedFrame
  | _ => .error .malformedFrame

/-- The same stage in the document's token form (R174). -/
def respTokens (h : Bytes) : Except FrameFault ResponseOutcome :=
  match splitAt Config.sep h with
  | t0 :: t1 :: t2 :: rest =>
    match parseDec2 t0 with
    | none => .error .malformedFrame
    | some a =>
      if t1 = tokenEr ∧ rest = [] then
        match t2 with
        | [c0, c1] => if (parseHex2 [c0, c1]).isSome then .ok (.deviceError a c0 c1) else .error .malformedFrame
        | _ => .error .malformedFrame
      else if t1 = tokenOk ∧ t2 = statusZero then .ok (.ok a (joinWith Config.sep rest))
      else .error .malformedFrame
  | _ => .error .malformedFrame

/-- Stage 4 of `dec_req` (R178), on the positions of the fields `H`. -/
def reqFields : Bytes → Except FrameFault Request
  | h0 :: d0 :: d1 :: h3 :: c0 :: c1 :: rest =>
    if h0 ≠ Config.lead then .error .malformedFrame
    else if h3 ≠ Config.sep then .error .malformedFrame
    else
      match parseDec2 [d0, d1], parseHex2 [c0, c1] with
      | some a, some c =>
        match rest with
        | [] => .ok { busAddress := a, code := c, argument := [] }
        | h6 :: argument =>
          if h6 ≠ Config.sep then .error .malformedFrame
          else .ok { busAddress := a, code := c, argument := argument }
      | _, _ => .error .malformedFrame
  | _ => .error .malformedFrame

/-- The same stage in token form (R179). -/
def reqTokens (h : Bytes) : Except FrameFault Request :=
  match splitAt Config.sep h with
  | t0 :: t1 :: rest =>
    match t0 with
    | [l, d0, d1] =>
      if l ≠ Config.lead then .error .malformedFrame
      else
        match parseDec2 [d0, d1], parseHex2 t1 with
        | some a, some c => .ok { busAddress := a, code := c, argument := joinWith Config.sep rest }
        | _, _ => .error .malformedFrame
    | _ => .error .malformedFrame
  | _ => .error .malformedFrame

/-- `dec_resp` (R175). -/
def decResp (raw : Bytes) : Except FrameFault ResponseOutcome := (runStages respFields raw).result

/-- `dec_req` (R180). -/
def decReq (raw : Bytes) : Except FrameFault Request := (runStages reqFields raw).result

/-- The result registers of a decoded response (R176): an `Ok` payload stays in FBUF from index 9 on. -/
def deliverResponse (o : ResponseOutcome) (s : State) : State :=
  match o with
  | .ok a p =>
    { s with
      raddr := BitVec.ofNat 7 a, rcode := 0x00#8, rerr := 0x0000#16, poff := 9#13, plen := BitVec.ofNat 13 p.length
      flags := Flags.afterDecode false }
  | .deviceError a c0 c1 =>
    { s with
      raddr := BitVec.ofNat 7 a, rcode := 0x00#8, rerr := pack2 c0 c1, poff := 0#13, plen := 0#13
      flags := Flags.afterDecode true }

/-- The result registers of a decoded request (R182): the argument stays in FBUF from index 7 on. -/
def deliverRequest (q : Request) (s : State) : State :=
  { s with
    raddr := BitVec.ofNat 7 q.busAddress, rcode := q.code, rerr := 0x0000#16, poff := 7#13
    plen := BitVec.ofNat 13 q.argument.length
    flags := Flags.afterDecode false }

/-- The common effect of the two decoder operations: ACC when stage 3 was reached (R172), then the delivered result or the
state of a faulting decode (R217). FBUF and LEN are never changed. -/
def applyDecoder {α : Type} (deliver : α → State → State) (d : DecodeRun α) (s : State) : State :=
  let s := { s with acc := d.acc.getD s.acc }
  match d.result with
  | .ok x => (deliver x s).complete
  | .error f => ({ s.clearResults with flags := Flags.afterDecodeFault d.stage3Passed }).raise (faultCodeOf f)

/-- DECR (R176). -/
def execDecr (s : State) : StepResult := .next (applyDecoder deliverResponse (runStages respFields s.frame) s)

/-- DECQ (R182). -/
def execDecq (s : State) : StepResult := .next (applyDecoder deliverRequest (runStages reqFields s.frame) s)

end Sys2Proof.Machine
end

