-- ==== Sys2Proof/Machine/System.lean ====
section
/-! DEFINITION. NOP, the one operation outside the two function families (R200, R205). -/

namespace Sys2Proof.Machine

/-- NOP (R200): REG.FAULT <- 0 and nothing else. -/
def execNop (s : State) : StepResult := .next s.complete

end Sys2Proof.Machine
end

