-- ==== Sys2Proof/Machine/Dispatch.lean ====
section
/-! DEFINITION. One arm per operation (R100): the meaning each one has. -/

namespace Sys2Proof.Machine

def exec (i : Instr) (s : State) : Host.Outcome State Fault Refusal :=
  match i with
  | .nop => Sys2Proof.Machine.execNop s
  | .cclr => Sys2Proof.Machine.execCclr s
  | .cacc => Sys2Proof.Machine.execCacc s
  | .csum => Sys2Proof.Machine.execCsum s
  | .cvfy => Sys2Proof.Machine.execCvfy s
  | .encq => Sys2Proof.Machine.execEncq s
  | .decr => Sys2Proof.Machine.execDecr s
  | .encok => Sys2Proof.Machine.execEncok s
  | .encer => Sys2Proof.Machine.execEncer s
  | .decq => Sys2Proof.Machine.execDecq s

end Sys2Proof.Machine
end

