-- ==== Sys2Proof/Machine/HostAccess.lean ====
section
/-! DEFINITION. The host's loads and stores (R60 to R67, R201 to R204), the CMD write that runs an operation (R37), and runs of a
host script (R251). -/

namespace Sys2Proof.Machine

/-- What a host address names (R61). -/
inductive Target where
  | reg (r : Reg)
  /-- a buffer cell, by its host address -/
  | cell (a : Nat)
  deriving DecidableEq, Repr

/-- The address map (R61): the register file, FBUF, ABUF; every other address is unmapped. -/
def targetOf (c : Config) (a : Word) : Option Target :=
  if a.toNat < 16 then (Reg.ofNumber a.toNat).map .reg
  else if Config.fbufBase ≤ a.toNat ∧ a.toNat < Config.fbufBase + c.frameMax then some (.cell a.toNat)
  else if Config.abufBase ≤ a.toNat ∧ a.toNat < Config.abufBase + c.argMax then some (.cell a.toNat)
  else none

/-- CSTR, a view of ACC (R31): the two characters of `hex2(ACC)`, the high digit in bits 15 to 8. -/
def State.cstr (s : State) : Word :=
  pack2 (hexDigit (s.acc.toNat / 16)) (hexDigit (s.acc.toNat % 16))

/-- A host read of a register: its value zero-extended to 16 bits (R23, R62, R201). -/
def State.readReg (s : State) : Reg → Word
  | .cmd => s.cmd
  | .flags => s.flags.word
  | .fault => BitVec.ofNat 16 s.fault.number
  | .acc => s.acc.setWidth 16
  | .cstr => s.cstr
  | .claim => s.claim
  | .din => s.din.setWidth 16
  | .len => s.len.setWidth 16
  | .alen => s.alen.setWidth 16
  | .addr => s.addr
  | .code => s.code.setWidth 16
  | .raddr => s.raddr.setWidth 16
  | .rcode => s.rcode.setWidth 16
  | .rerr => s.rerr
  | .poff => s.poff.setWidth 16
  | .plen => s.plen.setWidth 16

/-- What a host write stores in a register (R24 to R29, R37, R66, R202). For CMD it is the storing alone; the operation is run
by `runCommand`. A length above its limit and every write to a read-only register are ignored. -/
def State.writeReg (s : State) (v : Word) : Reg → State
  | .cmd => { s with cmd := v }
  | .claim => { s with claim := v }
  | .din => { s with din := v.setWidth 8 }
  | .len => { s with len := if v.toNat ≤ s.cfg.frameMax then v.setWidth 13 else s.len }
  | .alen => { s with alen := if v.toNat ≤ s.cfg.argMax then v.setWidth 13 else s.alen }
  | .addr => { s with addr := v }
  | .code => { s with code := v.setWidth 8 }
  | .flags | .fault | .acc | .cstr | .raddr | .rcode | .rerr | .poff | .plen => s

/-- Runs the operation a CMD value selects, or records IllegalCommand (R37, R100, R101, R214). CMD already holds the value. -/
def runCommand (v : Word) (s : State) : StepResult :=
  match decode v with
  | .ok i => exec i s
  | .error (.illegalCommand _) => .next (illegalCommand s)

/-- The value a host read of an address returns (R62, R201, R203); none for an unmapped address (R67). -/
def State.readValue (s : State) (a : Word) : Option Word :=
  match targetOf s.cfg a with
  | none => none
  | some (.reg r) => some (s.readReg r)
  | some (.cell k) => some ((s.cell k).setWidth 16)

/-- `MemRead(a, 1)` (R62, R66, R67): no read has a side effect, only what the host is told changes; an unmapped address is
refused. -/
def hostRead (a : Word) (s : State) : StepResult :=
  match s.readValue a with
  | none => .refused (.unmappedAccess a)
  | some v => .next { s with reply := .hostData v }

/-- `MemWrite(a, 1, v)` (R62, R66, R67, R202, R204); an unmapped address is refused. -/
def hostWrite (a v : Word) (s : State) : StepResult :=
  match targetOf s.cfg a with
  | none => .refused (.unmappedAccess a)
  | some (.reg .cmd) => runCommand v { s.writeReg v .cmd with reply := .hostOk }
  | some (.reg r) => .next { s.writeReg v r with reply := .hostOk }
  | some (.cell k) => .next { s with mem := s.mem.write k (v.setWidth 8), reply := .hostOk }

/-- One host access or reset, atomic (R65, R69, R240). -/
def applyEvent (e : HostEvent) (s : State) : StepResult :=
  match e with
  | .read a => hostRead a s
  | .write a v => hostWrite a v s
  | .reset => .next s.applyReset

/-- Whether an event is a reset or an access to a mapped address (R61). -/
def HostEvent.mapped (c : Config) : HostEvent → Bool
  | .read a | .write a _ => (targetOf c a).isSome
  | .reset => true

/-- A run as far as a claim may speak of it (R67, R251): the events of a script applied one after the other, each to the state its
predecessor left. An empty script ends in its start state, a recorded fault does not end a run, and nothing is said past an
access to an unmapped address. -/
def runScript : List HostEvent → State → StepResult
  | [], s => .next s
  | e :: es, s =>
    match applyEvent e s with
    | .next t => runScript es t
    | .fault r => .fault r
    | .refused r => .refused r

/-- What the block holds after an event: a refused access has no effect on it and the host is told `HostErr` (R67). -/
def afterEvent (e : HostEvent) (s : State) : State :=
  match applyEvent e s with
  | .next t => t
  | .fault f => nomatch f
  | .refused _ => { s with reply := .hostErr }

/-- The end state of a run (R251): no access ends it, after a refused one the next triple is applied as usual. A claim about a
script goes by `runScript`, which says nothing past a refused access (R67); the two agree on every other script. -/
def runEnd : List HostEvent → State → State
  | [], s => s
  | e :: es, s => runEnd es (afterEvent e s)

/-- One step of the block: the next pending event, or nothing at all when there is none (R15, R241). -/
def stepPending (s : State) : StepResult :=
  match s.input with
  | [] => .next s
  | e :: rest => applyEvent e { s with input := rest }

end Sys2Proof.Machine
end

