-- ==== Sys2Proof/Machine/Step.lean ====
section
/-! DEFINITION. The step, and the state in which the next step runs a given command word. -/

namespace Sys2Proof.Machine

/-- One step: the host's next access or the environment's reset, if there is one pending (R15, R69, R251). -/
def step (s : State) : Host.Outcome State Fault Refusal := stepPending s

/-- `s` with a host write of the command word to CMD as its very next access: the block fetches no program (R22), an operation
is selected by the host's write (R15, R100; log 4). -/
def State.withFetchWord (s : State) (nbits w : Nat) : State :=
  { s with input := .write Reg.cmd.address (commandWord nbits w) :: s.input }

end Sys2Proof.Machine
end

