-- ==== Sys2Proof/WellFormed.lean ====
section
/-! DEFINITION. The checks on what can be written down: the parameter's range (R7), and that a line of the host notation names a
cell that exists (R61, R104). An operation has no operand, so every `Instr` is well formed (R100, R102). -/

namespace Sys2Proof

/-- 13 <= FRAME_MAX <= 4096 (R7). -/
abbrev Config.Wf (c : Config) : Prop := 13 ≤ c.frameMax ∧ c.frameMax ≤ 4096

/-- The number of cells of a buffer: FRAME_MAX for FBUF, ARG_MAX for ABUF (R41, R42). -/
def Buffer.size (c : Config) : Buffer → Nat
  | .fbuf => c.frameMax
  | .abuf => c.argMax

/-- An operation has no field that could be out of range (R100). -/
def Instr.wf : Instr → Bool
  | .nop | .cclr | .cacc | .csum | .cvfy | .encq | .decr | .encok | .encer | .decq => true

/-- A line is well formed when the buffer cell it names exists (R61). The data of a write may be any 16 bits: the cell or
register takes what its own rule keeps (R202, R204). -/
def Line.wf (c : Config) : Line → Bool
  | .wr _ _ | .rd _ => true
  | .wb b i _ | .rb b i => decide (i < b.size c)
  | .op i => i.wf

/-- A pseudo-line is well formed when its string fits its buffer (R105); a streamed string has no limit (R130). -/
def PseudoLine.wf (c : Config) : PseudoLine → Bool
  | .ldf s | .rdf s => decide (s.length ≤ c.frameMax)
  | .lda s => decide (s.length ≤ c.argMax)
  | .cstream _ => true

end Sys2Proof
end

