-- ==== Sys2Proof/Safety.lean ====
section
/-! DEFINITION. What counts as a safe state and a safe run, in the terms the statements use: the invariant of every reachable state
(R26, R27, R32, R35, R36, R38), the launch premises (R252), and a run of which a claim may speak to its end (R67, R251). -/

namespace Sys2Proof.Machine

/-- What holds of every state a run can reach. -/
structure State.Inv (s : State) : Prop where
  /-- 13 <= FRAME_MAX <= 4096 (R7) -/
  cfgWf : s.cfg.Wf
  /-- the memory has its one canonical form -/
  memWf : Memory.wf s.mem
  /-- every listed cell is a cell of FBUF or of ABUF (R41, R42, R61) -/
  memMapped : ∀ c ∈ s.mem,
    (Config.fbufBase ≤ c.1 ∧ c.1 < Config.fbufBase + s.cfg.frameMax) ∨
    (Config.abufBase ≤ c.1 ∧ c.1 < Config.abufBase + s.cfg.argMax)
  /-- LEN <= FRAME_MAX (R26) -/
  lenLe : s.len.toNat ≤ s.cfg.frameMax
  /-- ALEN <= ARG_MAX (R27) -/
  alenLe : s.alen.toNat ≤ s.cfg.argMax
  /-- RADDR <= 99 (R32) -/
  raddrLe : s.raddr.toNat ≤ 99
  /-- the result registers and KIND are zero when VALID = 0 (R38) -/
  clearWhenInvalid : s.flags.valid = false →
    s.raddr = 0#7 ∧ s.rcode = 0#8 ∧ s.rerr = 0#16 ∧ s.poff = 0#13 ∧ s.plen = 0#13 ∧ s.flags.kind = false
  /-- an error code is held only with KIND = 1, and is two hexadecimal digits then (R34, R173) -/
  errorCode : (s.flags.kind = false → s.rerr = 0#16) ∧
    (s.flags.kind = true → isHex (char0 s.rerr) = true ∧ isHex (char1 s.rerr) = true ∧ s.poff = 0#13 ∧ s.plen = 0#13)
  /-- the decoded payload or argument lies inside FBUF (R35, R36) -/
  payloadInside : s.poff.toNat + s.plen.toNat ≤ s.cfg.frameMax

/-- `AfterReset` (R252): every register holds its reset value; the buffer cells hold any bytes. -/
def State.AfterReset (s : State) : Prop :=
  s = { State.resetWith s.cfg s.draw with mem := s.mem, input := s.input, reply := s.reply }

/-- `NoFault` (R252). -/
def State.NoFault (s : State) : Prop := s.fault = .none

/-- `NoOutcome` (R252). -/
def State.NoOutcome (s : State) : Prop :=
  s.flags.valid = false ∧ s.raddr = 0#7 ∧ s.rcode = 0#8 ∧ s.rerr = 0#16 ∧ s.poff = 0#13 ∧ s.plen = 0#13 ∧
    s.flags.kind = false

/-- `AccClear` (R252). -/
def State.AccClear (s : State) : Prop := s.acc = 0#8

/-- A run is safe when a claim may speak of it to its end: none of its accesses is refused (R67, R251). A script with an access to an
unmapped address is not safe. -/
def SafeRun (script : List HostEvent) (s : State) : Prop := ∃ t, runScript script s = .next t

end Sys2Proof.Machine
end

