-- ==== Sys2Proof/Certificates/Slice0/Obligations.lean ====
section
/-! DEFINITION. The statements for the provers. Every docstring names the rule of spec/ its statement formalises; "the model's own"
marks what rests on a choice of the model and names the log entry. -/

open Sys2Proof Sys2Proof.Machine

/-! ## The command word -/

/-- R100: the ten operation numbers, and no other 16-bit value selects an operation. -/
def Obligations.CommandWordsSelectOperations : Prop :=
  decode 0x0000#16 = .ok .nop ∧ decode 0x0001#16 = .ok .cclr ∧ decode 0x0002#16 = .ok .cacc ∧
  decode 0x0003#16 = .ok .csum ∧ decode 0x0004#16 = .ok .cvfy ∧ decode 0x0005#16 = .ok .encq ∧
  decode 0x0006#16 = .ok .decr ∧ decode 0x0007#16 = .ok .encok ∧ decode 0x0008#16 = .ok .encer ∧
  decode 0x0009#16 = .ok .decq ∧
  ∀ v : Word, 0x000A ≤ v.toNat → decode v = .error (.illegalCommand v)

/-- Decoder and encoder agree in both directions on every 16-bit value (R100, R102). -/
def Obligations.CommandWordDecodesIffEncoded : Prop :=
  ∀ (v : Word) (i : Instr), decode v = .ok i ↔ encode i = v

/-! ## The step -/

/-- R37: a host write of CMD first stores the value, then runs the operation it selects. The host is told `HostOk` and its
other accesses stay pending (the model's own input and reply, log 4). -/
def Obligations.StepRunsDecodedOperation : Prop :=
  ∀ (s : State) (v : Word) (rest : List HostEvent) (i : Instr),
    s.input = .write 0x0000#16 v :: rest → decode v = .ok i →
    step s = exec i { s with cmd := v, input := rest, reply := .hostOk }

/-- R214, R101: a CMD value that selects no operation is stored in CMD, FAULT reads 4, and nothing else changes. -/
def Obligations.IllegalCommandIsRecorded : Prop :=
  ∀ (s : State) (v : Word) (rest : List HostEvent),
    s.input = .write 0x0000#16 v :: rest → 0x000A ≤ v.toNat →
    ∃ t, step s = .next t ∧ t = { s with cmd := v, fault := .illegalCommand, input := rest, reply := .hostOk } ∧
      t.readReg .fault = 4#16

/-- R241: with no host access pending the block does nothing on its own (the idle step is the model's own, log 4). -/
def Obligations.IdleStepChangesNothing : Prop :=
  ∀ s : State, s.input = [] → step s = .next s

/-- R13, R218, R67: a step answers a next state but when the pending access is to an unmapped address, which it refuses by name; no
step faults (logs 5 and 8). Every operation completes, whatever it finds. -/
def Obligations.StepAnswersUnlessUnmapped : Prop :=
  (∀ (i : Instr) (s : State), ∃ t, exec i s = .next t) ∧
  ∀ s : State,
    ((∀ a v rest, targetOf s.cfg a = none → s.input ≠ .read a :: rest ∧ s.input ≠ .write a v :: rest) → ∃ t, step s = .next t) ∧
    ∀ a v rest, targetOf s.cfg a = none → s.input = .read a :: rest ∨ s.input = .write a v :: rest →
      step s = .refused (.unmappedAccess a)

/-- R251, R67: a run applies its events one after the other and an empty script ends in its start state; a claim may speak of a run to
its end exactly when every access is mapped; the model's steps from a state with the script pending are that run. The block itself
goes on after a refused access (log 5): where a claim may speak, its end state is the run's. -/
def Obligations.RunAppliesEventsInOrder : Prop :=
  (∀ s, runScript [] s = .next s ∧ runEnd [] s = s) ∧
  (∀ es (s : State), SafeRun es s ↔ ∀ e ∈ es, HostEvent.mapped s.cfg e = true) ∧
  (∀ es fs s t, runScript es s = .next t → runScript (es ++ fs) s = runScript fs t) ∧
  (∀ es more (s : State),
    Sys2Proof.core.run es.length ({ s with input := es ++ more } : State) =
      runScript es ({ s with input := more } : State)) ∧
  (∀ es s t, runScript es s = .next t → runEnd es s = t) ∧
  ∀ es fs s, runEnd (es ++ fs) s = runEnd fs (runEnd es s)

/-- The parameter FRAME_MAX is not state (R21): no step writes the model's own field that carries it (log 1). -/
def Obligations.StepKeepsParameter : Prop :=
  ∀ s t : State, step s = .next t → t.cfg = s.cfg

/-! ## Reset -/

/-- R44: after reset every register reads zero, and the view CSTR reads 0x3030; for the reset state and for a reset event. -/
def Obligations.ResetRegisterValues : Prop :=
  ∀ r : Reg,
    State.reset.readReg r = (if r = .cstr then 0x3030#16 else 0#16) ∧
    ∀ s t : State, applyEvent .reset s = .next t → t.readReg r = (if r = .cstr then 0x3030#16 else 0#16)

/-- R240, R45: a reset event completes, keeps no buffer byte, clears none, and draws every cell anew. That the draw is numbered
is the model's own (log 3); the byte itself is free (log 2). -/
def Obligations.ResetEventDrawsBuffersAnew : Prop :=
  ∀ (s : State) (rest : List HostEvent), s.input = .reset :: rest →
    ∃ t, step s = .next t ∧ t.AfterReset ∧ t.input = rest ∧ t.cfg = s.cfg ∧
      ∀ a, t.cell a = Config.unwrittenByte (s.draw + 1) a

/-- R252: `AfterReset` implies the other three launch premises, and the reset state satisfies it. -/
def Obligations.AfterResetImpliesLaunchPremises : Prop :=
  State.reset.AfterReset ∧ ∀ s : State, s.AfterReset → s.NoFault ∧ s.NoOutcome ∧ s.AccClear

/-- R242: after reset ACC and CSTR are the checksum of nothing, the current sequence is empty, no outcome and no fault is held; CSUM then
gives 0 and DECR gives MalformedFrame. For every parameter and every draw. -/
def Obligations.ResetStateMeaning : Prop :=
  ∀ (c : Config) (d : Nat),
    let s := State.resetWith c d
    s.acc = csum [] ∧ [(s.readReg .cstr).extractLsb' 8 8, (s.readReg .cstr).extractLsb' 0 8] = compute [] ∧
    s.frame = [] ∧ s.flags.valid = false ∧ s.fault = .none ∧
    (∃ t, exec .csum s = .next t ∧ t.acc = 0#8) ∧ (∃ t, exec .decr s = .next t ∧ t.fault = .malformedFrame)

/-! ## Host accesses -/

/-- R201: a host read of a register returns its value zero-extended to 16 bits (for CSTR, the characters of hex2(ACC)) and changes no
state. -/
def Obligations.RegisterReadReturnsValue : Prop :=
  ∀ (s : State) (r : Reg) (rest : List HostEvent), s.input = .read (BitVec.ofNat 16 r.number) :: rest →
    ∃ v : Word, step s = .next { s with input := rest, reply := .hostData v } ∧
      match r with
      | .cmd => v = s.cmd
      | .flags => v.toNat = s.flags.valid.toNat + 2 * s.flags.matched.toNat + 4 * s.flags.kind.toNat
      | .fault => v.toNat = s.fault.number
      | .acc => v.toNat = s.acc.toNat
      | .cstr => [v.extractLsb' 8 8, v.extractLsb' 0 8] = hex2 s.acc
      | .claim => v = s.claim
      | .din => v.toNat = s.din.toNat
      | .len => v.toNat = s.len.toNat
      | .alen => v.toNat = s.alen.toNat
      | .addr => v = s.addr
      | .code => v.toNat = s.code.toNat
      | .raddr => v.toNat = s.raddr.toNat
      | .rcode => v.toNat = s.rcode.toNat
      | .rerr => v = s.rerr
      | .poff => v.toNat = s.poff.toNat
      | .plen => v.toNat = s.plen.toNat

/-- R202: what a host write does, register by register; the access is always answered `HostOk`, and only a write of CMD can change
FAULT. -/
def Obligations.RegisterWriteFollowsTable : Prop :=
  ∀ (s : State) (r : Reg) (v : Word) (rest : List HostEvent), s.cfg.Wf →
    s.input = .write (BitVec.ofNat 16 r.number) v :: rest →
    let u : State := { s with input := rest, reply := .hostOk }
    match r with
    | .cmd => (step s =
        match decode v with
        | .ok i => exec i { u with cmd := v }
        | .error _ => .next { u with cmd := v, fault := .illegalCommand }) ∧ ∃ t, step s = .next t ∧ t.reply = .hostOk
    | .claim => step s = .next { u with claim := v }
    | .addr => step s = .next { u with addr := v }
    | .din => step s = .next { u with din := v.extractLsb' 0 8 }
    | .code => step s = .next { u with code := v.extractLsb' 0 8 }
    | .len => ∃ t, step s = .next t ∧ t = { u with len := t.len } ∧
        (v.toNat ≤ s.cfg.frameMax → t.len.toNat = v.toNat) ∧ (s.cfg.frameMax < v.toNat → t.len = s.len)
    | .alen => ∃ t, step s = .next t ∧ t = { u with alen := t.alen } ∧
        (v.toNat ≤ s.cfg.frameMax - 13 → t.alen.toNat = v.toNat) ∧ (s.cfg.frameMax - 13 < v.toNat → t.alen = s.alen)
    | .flags | .fault | .acc | .cstr | .raddr | .rcode | .rerr | .poff | .plen => step s = .next u

/-- R203: a host read of a buffer cell returns the cell zero-extended, whatever LEN and ALEN are; an index at or beyond the
buffer's size is unmapped: the access is refused, with no value (that a model's step refuses it is R67 as log 5 reads it). -/
def Obligations.BufferReadReturnsCell : Prop :=
  ∀ (s : State) (i : Nat) (rest : List HostEvent), s.cfg.Wf →
    (i < 4096 → s.input = .read (BitVec.ofNat 16 (0x1000 + i)) :: rest →
      step s =
        if i < s.cfg.frameMax then .next { s with input := rest, reply := .hostData (BitVec.setWidth 16 (s.cell (0x1000 + i))) }
        else .refused (.unmappedAccess (BitVec.ofNat 16 (0x1000 + i)))) ∧
    (i < 0xE000 → s.input = .read (BitVec.ofNat 16 (0x2000 + i)) :: rest →
      step s =
        if i < s.cfg.frameMax - 13 then
          .next { s with input := rest, reply := .hostData (BitVec.setWidth 16 (s.cell (0x2000 + i))) }
        else .refused (.unmappedAccess (BitVec.ofNat 16 (0x2000 + i))))

/-- R204: a host write of a buffer cell stores the low byte in that cell and in no other, and changes no register; at an unmapped
index the access is refused and changes nothing (that a model's step refuses it is R67 as log 5 reads it). -/
def Obligations.BufferWriteChangesOneCell : Prop :=
  ∀ (s : State) (b : Buffer) (i : Nat) (v : Word) (rest : List HostEvent), s.cfg.Wf →
    (b = .fbuf → i < 4096) → (b = .abuf → i < 0xE000) →
    s.input = .write (BitVec.ofNat 16 (b.base + i)) v :: rest →
    (i < b.size s.cfg → ∃ t, step s = .next t ∧
      t = { s with mem := t.mem, input := rest, reply := .hostOk } ∧ t.cell (b.base + i) = v.extractLsb' 0 8 ∧
      ∀ a, a ≠ b.base + i → t.cell a = s.cell a) ∧
    (b.size s.cfg ≤ i → step s = .refused (.unmappedAccess (BitVec.ofNat 16 (b.base + i))) ∧
      ∀ u : State, u.cfg = s.cfg → afterEvent (.write (BitVec.ofNat 16 (b.base + i)) v) u = { u with reply := .hostErr })

/-- R67: an access to an address outside the map (R61) changes no state, is answered `HostErr` with no value, and is refused by the
model: a claim about a script says nothing past its first one. That the refusal ends the model's run and not the block's is log 5. -/
def Obligations.UnmappedAccessIsRefused : Prop :=
  ∀ (s : State) (a v : Word) (rest : List HostEvent) (e : HostEvent), s.cfg.Wf → 0x0010 ≤ a.toNat →
    ¬ (0x1000 ≤ a.toNat ∧ a.toNat < 0x1000 + s.cfg.frameMax) →
    ¬ (0x2000 ≤ a.toNat ∧ a.toNat < 0x2000 + (s.cfg.frameMax - 13)) →
    e = .read a ∨ e = .write a v →
    afterEvent e s = { s with reply := .hostErr } ∧ s.readValue a = none ∧
    (s.input = e :: rest → step s = .refused (.unmappedAccess a)) ∧
    ∀ before after s₀, runScript before s₀ = .next s →
      runScript (before ++ e :: after) s₀ = .refused (.unmappedAccess a) ∧ ¬ SafeRun (before ++ e :: after) s₀

/-- R31: at every moment CSTR is the two characters of hex2(ACC), the first in bits 15 to 8; 0x3030 after reset. -/
def Obligations.CstrIsViewOfAcc : Prop :=
  (∀ s : State, [(s.readReg .cstr).extractLsb' 8 8, (s.readReg .cstr).extractLsb' 0 8] = hex2 s.acc) ∧
  State.reset.readReg .cstr = 0x3030#16

/-! ## Field assembly and parsing -/

/-- R88, R90: `parse_dec2` accepts exactly the two-digit forms of 0 to 99 and gives their value. -/
def Obligations.ParseDec2IffDec2 : Prop :=
  ∀ (s : Bytes) (a : Nat), parseDec2 s = some a ↔ a ≤ 99 ∧ s = dec2 a

/-- R89, R91, R92: `parse_hex2` accepts exactly the two-character sequences whose upper-case form is `hex2` of the value. -/
def Obligations.ParseHex2IffFoldedHex2 : Prop :=
  ∀ (s : Bytes) (v : Byte), parseHex2 s = some v ↔ s.map fold = hex2 v

/-! ## The checksum engine -/

/-- R120: the checksum is the sum of the byte values modulo 256, 0 for the empty sequence, one byte added at a time. -/
def Obligations.ChecksumIsSumModulo256 : Prop :=
  csum [] = 0#8 ∧ (∀ (s : Bytes) (b : Byte), csum (s ++ [b]) = csum s + b) ∧
  ∀ s : Bytes, (csum s).toNat = (s.map BitVec.toNat).sum % 256

/-- R123: the checksum is additive and does not depend on the order of the bytes. -/
def Obligations.ChecksumAdditiveAndOrderFree : Prop :=
  (∀ s t : Bytes, (csum (s ++ t)).toNat = ((csum s).toNat + (csum t).toNat) % 256) ∧
  ∀ s t : Bytes, s.Perm t → csum s = csum t

/-- R122: `verify` compares the claim with the recomputed digits without regard to case; a claim of another length, or with a byte
that is no hexadecimal digit, is unequal; equivalently the parsed claim is the checksum. -/
def Obligations.VerifyComparesFolded : Prop :=
  ∀ s c : Bytes,
    (verify s c = true ↔ c.length = 2 ∧ c.map fold = compute s) ∧
    (verify s c = true ↔ parseHex2 c = some (csum s)) ∧
    ((∃ b ∈ c, isHex b = false) → verify s c = false)

/-- R124: a sequence verifies against its own checksum, and against it with any of its letters in lower case. -/
def Obligations.VerifyAcceptsOwnChecksum : Prop :=
  ∀ s : Bytes, verify s (compute s) = true ∧
    ∀ c : Bytes, List.Forall₂ (fun x y => x = y ∨ (0x41 ≤ y.toNat ∧ y.toNat ≤ 0x46 ∧ x = y + 0x20#8)) c (compute s) →
      verify s c = true

/-- R125: changing one byte changes the checksum, so the old checksum does not verify; inserting or removing 0x00 is not seen. -/
def Obligations.OneChangedByteIsDetected : Prop :=
  (∀ (s : Bytes) (i : Nat) (b : Byte), i < s.length → s[i]? ≠ some b →
    csum (s.set i b) ≠ csum s ∧ verify (s.set i b) (compute s) = false) ∧
  ∀ s t : Bytes, csum (s ++ 0#8 :: t) = csum (s ++ t)

/-- The current byte sequence is FBUF[0..LEN-1] and the operand is ABUF[0..ALEN-1] (R26, R27, R41, R42). -/
def Obligations.SequencesAreBufferCells : Prop :=
  ∀ s : State,
    s.frame.length = s.len.toNat ∧ (∀ i, i < s.len.toNat → s.frame[i]? = some (s.cell (0x1000 + i))) ∧
    s.operand.length = s.alen.toNat ∧ (∀ i, i < s.alen.toNat → s.operand[i]? = some (s.cell (0x2000 + i)))

/-! ## The operations without a frame -/

/-- R200: NOP clears FAULT and changes nothing else. -/
def Obligations.NopClearsFaultOnly : Prop :=
  ∀ s : State, exec .nop s = .next { s with fault := .none }

/-- R126: CCLR clears ACC (CSTR reads 0x3030) and FAULT and changes nothing else. -/
def Obligations.CclrClearsAccumulator : Prop :=
  ∀ s : State, ∃ t, exec .cclr s = .next t ∧ t = { s with acc := 0#8, fault := .none } ∧ t.readReg .cstr = 0x3030#16

/-- R127: CACC adds DIN to ACC modulo 256 and changes nothing else but FAULT. -/
def Obligations.CaccAddsDin : Prop :=
  ∀ s : State, ∃ t, exec .cacc s = .next t ∧ t = { s with acc := t.acc, fault := .none } ∧
    t.acc.toNat = (s.acc.toNat + s.din.toNat) % 256

/-- R128: CSUM puts the checksum of FBUF[0..LEN-1] in ACC, CSTR then reads `compute` of it, nothing else changes but FAULT. -/
def Obligations.CsumReplacesAccumulator : Prop :=
  ∀ s : State, ∃ t, exec .csum s = .next t ∧ t = { s with acc := csum s.frame, fault := .none } ∧
    [(t.readReg .cstr).extractLsb' 8 8, (t.readReg .cstr).extractLsb' 0 8] = compute s.frame

/-- R129: CVFY writes ACC and MATCH, a false result is no fault, nothing else changes but FAULT; LEN = 0 with CLAIM `00`
matches, the reset value of CLAIM never does. -/
def Obligations.CvfyWritesMatch : Prop :=
  ∀ s : State, ∃ b : Bool,
    exec .cvfy s = .next { s with acc := csum s.frame, flags := { s.flags with matched := b }, fault := .none } ∧
    b = verify s.frame [s.claim.extractLsb' 8 8, s.claim.extractLsb' 0 8] ∧
    (s.len = 0#13 → s.claim = 0x3030#16 → b = true) ∧ (s.claim = 0x0000#16 → b = false)

/-- R130: streaming a byte sequence through CACC leaves the checksum that loading it and CSUM leaves; streaming has no length
limit. -/
def Obligations.StreamingEqualsBlock : Prop :=
  ∀ (s : State) (bytes : Bytes),
    (∃ t, runScript (PseudoLine.cstream bytes).encode s = .next t ∧ t.acc = csum bytes) ∧
    (s.cfg.Wf → bytes.length ≤ s.cfg.frameMax →
      ∃ u, runScript ((PseudoLine.ldf bytes).encode ++ [(Line.op .csum).encode]) s = .next u ∧ u.acc = csum bytes)

/-! ## The encoders -/

/-- R153: ENCQ. With ADDR <= 99 the request frame of R81 stands in FBUF[0..n-1] and every other byte is as before, LEN = n, ACC the
checksum of its prefix, the results cleared, MATCH kept; with ADDR > 99 only FAULT changes. -/
def Obligations.EncqStoresRequestFrame : Prop :=
  ∀ s : State,
    (s.addr.toNat ≤ 99 → ∃ m : Memory,
      let r := frameReq s.addr.toNat s.code s.operand
      exec .encq s = .next { s with
        mem := m, len := BitVec.ofNat 13 r.length, acc := csum (r.take (r.length - 3))
        raddr := 0#7, rcode := 0#8, rerr := 0#16, poff := 0#13, plen := 0#13
        flags := { s.flags with valid := false, kind := false }, fault := .none } ∧
      (∀ i b, r[i]? = some b → ({ s with mem := m } : State).cell (0x1000 + i) = b) ∧
      (∀ a, a < 0x1000 ∨ 0x1000 + r.length ≤ a → ({ s with mem := m } : State).cell a = s.cell a)) ∧
    (99 < s.addr.toNat → exec .encq s = .next { s with fault := .invalidBusAddress })

/-- R154: ENCOK, the same with the success response frame of R82; CODE is not read. -/
def Obligations.EncokStoresSuccessFrame : Prop :=
  ∀ s : State,
    (s.addr.toNat ≤ 99 → ∃ m : Memory,
      let r := frameOk s.addr.toNat s.operand
      exec .encok s = .next { s with
        mem := m, len := BitVec.ofNat 13 r.length, acc := csum (r.take (r.length - 3))
        raddr := 0#7, rcode := 0#8, rerr := 0#16, poff := 0#13, plen := 0#13
        flags := { s.flags with valid := false, kind := false }, fault := .none } ∧
      (∀ i b, r[i]? = some b → ({ s with mem := m } : State).cell (0x1000 + i) = b) ∧
      (∀ a, a < 0x1000 ∨ 0x1000 + r.length ≤ a → ({ s with mem := m } : State).cell a = s.cell a)) ∧
    (99 < s.addr.toNat → exec .encok s = .next { s with fault := .invalidBusAddress })

/-- R155: ENCER, the same with the error response frame of R83; ALEN and ABUF are not read. -/
def Obligations.EncerStoresErrorFrame : Prop :=
  ∀ s : State,
    (s.addr.toNat ≤ 99 → ∃ m : Memory,
      let r := frameEr s.addr.toNat s.code
      exec .encer s = .next { s with
        mem := m, len := 12#13, acc := csum (r.take 9)
        raddr := 0#7, rcode := 0#8, rerr := 0#16, poff := 0#13, plen := 0#13
        flags := { s.flags with valid := false, kind := false }, fault := .none } ∧
      (∀ i b, r[i]? = some b → ({ s with mem := m } : State).cell (0x1000 + i) = b) ∧
      (∀ a, a < 0x1000 ∨ 0x100C ≤ a → ({ s with mem := m } : State).cell a = s.cell a)) ∧
    (99 < s.addr.toNat → exec .encer s = .next { s with fault := .invalidBusAddress })

/-- R216: a CMD write that runs an encoder with ADDR > 99 leaves FAULT = 1 and CMD = the value written, all else as before. -/
def Obligations.InvalidBusAddressLeavesStateAlone : Prop :=
  ∀ (s : State) (i : Instr) (rest : List HostEvent), i = .encq ∨ i = .encok ∨ i = .encer → 99 < s.addr.toNat →
    s.input = .write 0x0000#16 (encode i) :: rest →
    ∃ t, step s = .next t ∧ t.readReg .fault = 1#16 ∧
      t = { s with cmd := encode i, fault := .invalidBusAddress, input := rest, reply := .hostOk }

/-- R157: the lengths of the three frames, and that none exceeds FRAME_MAX. -/
def Obligations.EncodedFramesFitBuffer : Prop :=
  ∀ (s : State) (a : Nat) (c : Byte), s.cfg.Wf → s.alen.toNat ≤ s.cfg.frameMax - 13 →
    (frameReq a c s.operand).length = (if s.alen.toNat = 0 then 10 else 11 + s.alen.toNat) ∧
    (frameOk a s.operand).length = (if s.alen.toNat = 0 then 12 else 13 + s.alen.toNat) ∧
    (frameEr a c).length = 12 ∧
    (frameReq a c s.operand).length ≤ s.cfg.frameMax ∧ (frameOk a s.operand).length ≤ s.cfg.frameMax ∧
    (frameEr a c).length ≤ s.cfg.frameMax

/-- R84: the position tables of the three formats. -/
def Obligations.FramesFollowPositionTables : Prop :=
  ∀ (a : Nat) (c : Byte) (g : Bytes), a ≤ 99 →
    let t : Byte := BitVec.ofNat 8 (0x30 + a / 10)
    let u : Byte := BitVec.ofNat 8 (0x30 + a % 10)
    (∃ k0 k1 c0 c1 : Byte, [c0, c1] = hex2 c ∧
      frameReq a c [] = [0x7E#8, t, u, 0x20#8, c0, c1, 0x20#8, k0, k1, 0x0D#8] ∧
      [k0, k1] = hex2 (csum [0x7E#8, t, u, 0x20#8, c0, c1, 0x20#8])) ∧
    (g ≠ [] → ∃ k0 k1 c0 c1 : Byte, [c0, c1] = hex2 c ∧
      frameReq a c g = [0x7E#8, t, u, 0x20#8, c0, c1, 0x20#8] ++ g ++ [0x20#8, k0, k1, 0x0D#8] ∧
      [k0, k1] = hex2 (csum ([0x7E#8, t, u, 0x20#8, c0, c1, 0x20#8] ++ g ++ [0x20#8]))) ∧
    (∃ k0 k1 : Byte,
      frameOk a [] = [t, u, 0x20#8, 0x4F#8, 0x4B#8, 0x20#8, 0x30#8, 0x30#8, 0x20#8, k0, k1, 0x0D#8] ∧
      [k0, k1] = hex2 (csum [t, u, 0x20#8, 0x4F#8, 0x4B#8, 0x20#8, 0x30#8, 0x30#8, 0x20#8])) ∧
    (g ≠ [] → ∃ k0 k1 : Byte,
      frameOk a g = [t, u, 0x20#8, 0x4F#8, 0x4B#8, 0x20#8, 0x30#8, 0x30#8, 0x20#8] ++ g ++ [0x20#8, k0, k1, 0x0D#8] ∧
      [k0, k1] = hex2 (csum ([t, u, 0x20#8, 0x4F#8, 0x4B#8, 0x20#8, 0x30#8, 0x30#8, 0x20#8] ++ g ++ [0x20#8]))) ∧
    (∃ k0 k1 e0 e1 : Byte, [e0, e1] = hex2 c ∧
      frameEr a c = [t, u, 0x20#8, 0x45#8, 0x52#8, 0x20#8, e0, e1, 0x20#8, k0, k1, 0x0D#8] ∧
      [k0, k1] = hex2 (csum [t, u, 0x20#8, 0x45#8, 0x52#8, 0x20#8, e0, e1, 0x20#8]))

/-- R159: the shape of every encoder output. -/
def Obligations.EncoderOutputShape : Prop :=
  ∀ (a : Nat) (c : Byte) (g r : Bytes), (encReq a c g = .ok r ∨ encOk a g = .ok r ∨ encEr a c = .ok r) →
    let n := r.length
    let field := (r.drop (n - 3)).take 2
    4 ≤ n ∧ r[n - 1]? = some 0x0D#8 ∧ r[n - 4]? = some 0x20#8 ∧
    field = compute (r.take (n - 3)) ∧
    (∀ b ∈ field, (0x30 ≤ b.toNat ∧ b.toNat ≤ 0x39) ∨ (0x41 ≤ b.toNat ∧ b.toNat ≤ 0x46)) ∧
    verify (r.take (n - 3)) field = true ∧
    (0x0D#8 ∉ g → firstIdx 0x0D#8 r = some (n - 1))

/-! ## The decoders -/

/-- R170, R171, R172, R175, R180, R220: the stages of both decoders, in order, on how the input is made up. -/
def Obligations.DecoderStagesInOrder : Prop :=
  ∀ raw : Bytes,
    ((¬ ∃ body, raw = body ++ [0x0D#8] ∧ 0x0D#8 ∉ body) →
      decResp raw = .error .malformedFrame ∧ decReq raw = .error .malformedFrame) ∧
    ∀ body, raw = body ++ [0x0D#8] → 0x0D#8 ∉ body →
      (0x20#8 ∉ body → decResp raw = .error .malformedFrame ∧ decReq raw = .error .malformedFrame) ∧
      ∀ h cl, body = h ++ 0x20#8 :: cl → 0x20#8 ∉ cl →
        (verify (h ++ [0x20#8]) cl = false →
          decResp raw = .error .checksumMismatch ∧ decReq raw = .error .checksumMismatch) ∧
        (verify (h ++ [0x20#8]) cl = true → decResp raw = respFields h ∧ decReq raw = reqFields h)

/-- R177: the response frames the decoder accepts, by position, and the value of each; no encoder produces the third layout with an
empty payload. -/
def Obligations.AcceptedResponsesByPosition : Prop :=
  (∀ (raw : Bytes) (v : ResponseOutcome), decResp raw = .ok v ↔
    ∃ d0 d1 k0 k1 : Byte, isDig d0 = true ∧ isDig d1 = true ∧
      let a := 10 * (d0.toNat - 0x30) + (d1.toNat - 0x30)
      ((∃ h0 h1 : Byte, isHex h0 = true ∧ isHex h1 = true ∧
          let pre := [d0, d1, 0x20#8, 0x45#8, 0x52#8, 0x20#8, h0, h1, 0x20#8]
          raw = pre ++ [k0, k1, 0x0D#8] ∧ verify pre [k0, k1] = true ∧ v = .deviceError a h0 h1) ∨
        (let pre := [d0, d1, 0x20#8, 0x4F#8, 0x4B#8, 0x20#8, 0x30#8, 0x30#8, 0x20#8];
          raw = pre ++ [k0, k1, 0x0D#8] ∧ verify pre [k0, k1] = true ∧ v = .ok a []) ∨
        (∃ p : Bytes, 0x0D#8 ∉ p ∧
          let pre := [d0, d1, 0x20#8, 0x4F#8, 0x4B#8, 0x20#8, 0x30#8, 0x30#8, 0x20#8] ++ p ++ [0x20#8]
          raw = pre ++ [k0, k1, 0x0D#8] ∧ verify pre [k0, k1] = true ∧ v = .ok a p))) ∧
  ∀ (a : Nat) (c : Byte) (g r : Bytes), (encReq a c g = .ok r ∨ encOk a g = .ok r ∨ encEr a c = .ok r) →
    ∀ d0 d1 k0 k1 : Byte, isDig d0 = true →
      r ≠ [d0, d1, 0x20#8, 0x4F#8, 0x4B#8, 0x20#8, 0x30#8, 0x30#8, 0x20#8, 0x20#8, k0, k1, 0x0D#8]

/-- R181: the request frames the decoder accepts, by position, and the value of each; no encoder produces the second layout with an
empty argument. -/
def Obligations.AcceptedRequestsByPosition : Prop :=
  (∀ (raw : Bytes) (q : Request), decReq raw = .ok q ↔
    ∃ d0 d1 h0 h1 k0 k1 c : Byte, isDig d0 = true ∧ isDig d1 = true ∧ parseHex2 [h0, h1] = some c ∧
      let a := 10 * (d0.toNat - 0x30) + (d1.toNat - 0x30)
      ((let pre := [0x7E#8, d0, d1, 0x20#8, h0, h1, 0x20#8];
          raw = pre ++ [k0, k1, 0x0D#8] ∧ verify pre [k0, k1] = true ∧
          q = { busAddress := a, code := c, argument := [] }) ∨
        (∃ g : Bytes, 0x0D#8 ∉ g ∧
          let pre := [0x7E#8, d0, d1, 0x20#8, h0, h1, 0x20#8] ++ g ++ [0x20#8]
          raw = pre ++ [k0, k1, 0x0D#8] ∧ verify pre [k0, k1] = true ∧
          q = { busAddress := a, code := c, argument := g }))) ∧
  ∀ (a : Nat) (c : Byte) (g r : Bytes), (encReq a c g = .ok r ∨ encOk a g = .ok r ∨ encEr a c = .ok r) →
    ∀ d0 d1 h0 h1 k0 k1 : Byte, r ≠ [0x7E#8, d0, d1, 0x20#8, h0, h1, 0x20#8, 0x20#8, k0, k1, 0x0D#8]

/-- R174: the field stage by positions and the document's token form give the same result on every byte sequence. -/
def Obligations.ResponseTokenFormAgrees : Prop :=
  ∀ h : Bytes, respFields h = respTokens h

/-- R179: the same for the request decoder. -/
def Obligations.RequestTokenFormAgrees : Prop :=
  ∀ h : Bytes, reqFields h = reqTokens h

/-- R183: decoding what the matching encoder produced returns the fields that were encoded; the converse can fail, for a request and
for a response. -/
def Obligations.EncodeDecodeRoundTrip : Prop :=
  (∀ (a : Nat) (c : Byte) (g : Bytes), a ≤ 99 → 0x0D#8 ∉ g →
    (∃ r, encReq a c g = .ok r ∧ decReq r = .ok { busAddress := a, code := c, argument := g }) ∧
    (∃ r, encOk a g = .ok r ∧ decResp r = .ok (.ok a g)) ∧
    (∃ r e0 e1, encEr a c = .ok r ∧ [e0, e1] = hex2 c ∧ decResp r = .ok (.deviceError a e0 e1))) ∧
  (∃ raw q r, decReq raw = .ok q ∧ encReq q.busAddress q.code q.argument = .ok r ∧ r ≠ raw) ∧
  ∃ raw a p r, decResp raw = .ok (.ok a p) ∧ encOk a p = .ok r ∧ r ≠ raw

/-- R247: an argument or payload that holds the terminator gives bytes that both decoders reject as malformed. -/
def Obligations.TerminatorInArgumentIsRejected : Prop :=
  ∀ (a : Nat) (c : Byte) (g : Bytes), 0x0D#8 ∈ g →
    decReq (frameReq a c g) = .error .malformedFrame ∧ decResp (frameReq a c g) = .error .malformedFrame ∧
    decReq (frameOk a g) = .error .malformedFrame ∧ decResp (frameOk a g) = .error .malformedFrame

/-- R185: no single changed byte makes an accepted frame decode to another value; the only accepted change is one of case inside
the checksum field; a changed prefix byte (no separator or terminator involved) gives ChecksumMismatch. -/
def Obligations.OneChangedByteNeverDecodesOtherwise : Prop :=
  ∀ (raw : Bytes) (j : Nat) (b : Byte), j < raw.length → raw[j]? ≠ some b →
    (∀ v w, decResp raw = .ok v → decResp (raw.set j b) = .ok w →
      w = v ∧ raw.length - 3 ≤ j ∧ j < raw.length - 1 ∧ raw[j]?.map fold = some (fold b)) ∧
    (∀ v w, decReq raw = .ok v → decReq (raw.set j b) = .ok w →
      w = v ∧ raw.length - 3 ≤ j ∧ j < raw.length - 1 ∧ raw[j]?.map fold = some (fold b)) ∧
    (j < raw.length - 3 → raw[j]? ≠ some 0x20#8 → b ≠ 0x20#8 → b ≠ 0x0D#8 →
      (∀ v, decResp raw = .ok v → decResp (raw.set j b) = .error .checksumMismatch) ∧
      (∀ v, decReq raw = .ok v → decReq (raw.set j b) = .error .checksumMismatch))

/-- R176, R212: DECR on a frame that decodes. A success response leaves its payload where it is, FBUF[9..9+PLEN-1]; an error
response is a value, with the two characters as received. Nothing else changes. -/
def Obligations.DecrDeliversOutcome : Prop :=
  ∀ s : State,
    (∀ a p, decResp s.frame = .ok (.ok a p) →
      exec .decr s = .next { s with
        acc := csum (s.frame.take (s.len.toNat - 3)), raddr := BitVec.ofNat 7 a, rcode := 0#8, rerr := 0#16
        poff := 9#13, plen := BitVec.ofNat 13 p.length
        flags := { valid := true, matched := true, kind := false }, fault := .none } ∧
      a ≤ 99 ∧ p.length = s.len.toNat - 13 ∧ ∀ i b, p[i]? = some b → s.cell (0x1000 + 9 + i) = b) ∧
    (∀ a e0 e1, decResp s.frame = .ok (.deviceError a e0 e1) →
      ∃ t, exec .decr s = .next t ∧ a ≤ 99 ∧
        t = { s with
          acc := csum (s.frame.take (s.len.toNat - 3)), raddr := BitVec.ofNat 7 a, rcode := 0#8, rerr := t.rerr
          poff := 0#13, plen := 0#13, flags := { valid := true, matched := true, kind := true }, fault := .none } ∧
        t.rerr.extractLsb' 8 8 = e0 ∧ t.rerr.extractLsb' 0 8 = e1)

/-- R182: DECQ on a frame that decodes: the argument stays where it is, FBUF[7..7+PLEN-1]; nothing else changes. -/
def Obligations.DecqDeliversRequest : Prop :=
  ∀ (s : State) (q : Request), decReq s.frame = .ok q →
    exec .decq s = .next { s with
      acc := csum (s.frame.take (s.len.toNat - 3)), raddr := BitVec.ofNat 7 q.busAddress, rcode := q.code, rerr := 0#16
      poff := 7#13, plen := BitVec.ofNat 13 q.argument.length
      flags := { valid := true, matched := true, kind := false }, fault := .none } ∧
    q.busAddress ≤ 99 ∧ q.argument.length = s.len.toNat - 11 ∧
    ∀ i b, q.argument[i]? = some b → s.cell (0x1000 + 7 + i) = b

/-- R217, R220: the state a faulting decode leaves, stage by stage. -/
def Obligations.FaultingDecodeState : Prop :=
  ∀ s : State,
    let cleared : State := { s with
      raddr := 0#7, rcode := 0#8, rerr := 0#16, poff := 0#13, plen := 0#13
      flags := { valid := false, matched := false, kind := false } }
    (((¬ ∃ body, s.frame = body ++ [0x0D#8] ∧ 0x0D#8 ∉ body) ∨
        ∃ body, s.frame = body ++ [0x0D#8] ∧ 0x0D#8 ∉ body ∧ 0x20#8 ∉ body) →
      exec .decr s = .next { cleared with fault := .malformedFrame } ∧
      exec .decq s = .next { cleared with fault := .malformedFrame }) ∧
    ∀ h cl, s.frame = h ++ 0x20#8 :: cl ++ [0x0D#8] → 0x0D#8 ∉ h → 0x0D#8 ∉ cl → 0x20#8 ∉ cl →
      (verify (h ++ [0x20#8]) cl = false →
        exec .decr s = .next { cleared with acc := csum (h ++ [0x20#8]), fault := .checksumMismatch } ∧
        exec .decq s = .next { cleared with acc := csum (h ++ [0x20#8]), fault := .checksumMismatch }) ∧
      (verify (h ++ [0x20#8]) cl = true →
        let passed : State := { cleared with
          acc := csum (h ++ [0x20#8]), fault := .malformedFrame
          flags := { valid := false, matched := true, kind := false } }
        (∀ f, respFields h = .error f → exec .decr s = .next passed) ∧
        (∀ f, reqFields h = .error f → exec .decq s = .next passed))

/-- R183 on the machine: ENCQ then DECQ recovers bus address, command code and argument, in every state of the invariant whose
operand holds no terminator. -/
def Obligations.EncqThenDecqRecoversRequest : Prop :=
  ∀ s : State, s.Inv → s.addr.toNat ≤ 99 → 0x0D#8 ∉ s.operand →
    ∃ t u, exec .encq s = .next t ∧ exec .decq t = .next u ∧
      u.raddr.toNat = s.addr.toNat ∧ u.rcode = s.code ∧ u.plen = s.alen ∧ u.poff = 7#13 ∧
      u.flags = { valid := true, matched := true, kind := false } ∧ u.fault = .none ∧
      u.cells (0x1000 + u.poff.toNat) u.plen.toNat = s.operand ∧ u.mem = t.mem

/-- R183 on the machine: ENCOK then DECR recovers bus address and payload; ENCER then DECR recovers bus address and the characters of
the error code. -/
def Obligations.EncodedResponsesDecodeBack : Prop :=
  ∀ s : State, s.Inv → s.addr.toNat ≤ 99 →
    (0x0D#8 ∉ s.operand → ∃ t u, exec .encok s = .next t ∧ exec .decr t = .next u ∧
      u.raddr.toNat = s.addr.toNat ∧ u.plen = s.alen ∧ u.poff = 9#13 ∧
      u.flags = { valid := true, matched := true, kind := false } ∧ u.fault = .none ∧
      u.cells (0x1000 + u.poff.toNat) u.plen.toNat = s.operand) ∧
    ∃ t u, exec .encer s = .next t ∧ exec .decr t = .next u ∧
      u.raddr.toNat = s.addr.toNat ∧ [u.rerr.extractLsb' 8 8, u.rerr.extractLsb' 0 8] = hex2 s.code ∧
      u.flags = { valid := true, matched := true, kind := true } ∧ u.fault = .none

/-! ## Whole-machine rules -/

/-- The invariant (R26, R27, R32, R35, R36, R38, and the memory's canonical form, the model's own, log 2) is kept by
every step. -/
def Obligations.StepKeepsInvariant : Prop :=
  ∀ s t : State, s.Inv → step s = .next t → t.Inv

/-- The reset state has the invariant, for every value of the parameter in range and every draw (logs 1 and 3). -/
def Obligations.ResetHasInvariant : Prop :=
  State.reset.Inv ∧ ∀ (c : Config) (d : Nat), c.Wf → (State.resetWith c d).Inv

/-- R40, R42: no operation writes an operand register, CMD, the parameter or the pending accesses; the operations that are not
encoders keep LEN and every buffer byte; under the invariant no operation writes ABUF. -/
def Obligations.OperationsKeepOperands : Prop :=
  ∀ (i : Instr) (s t : State), exec i s = .next t →
    (t.cmd = s.cmd ∧ t.claim = s.claim ∧ t.din = s.din ∧ t.alen = s.alen ∧ t.addr = s.addr ∧ t.code = s.code ∧
      t.cfg = s.cfg ∧ t.draw = s.draw ∧ t.input = s.input ∧ t.reply = s.reply) ∧
    (i ≠ .encq → i ≠ .encok → i ≠ .encer → t.len = s.len ∧ ∀ a, t.cell a = s.cell a) ∧
    (s.Inv → ∀ a, 0x2000 ≤ a → t.cell a = s.cell a)

/-- R252, R40: no operation's result depends on FAULT, FLAGS, the result registers or, but for CACC, on ACC: whatever these
held, FBUF, LEN and FAULT come out the same, and every other field comes out the same or is kept. -/
def Obligations.ResultsIgnoreEarlierResults : Prop :=
  ∀ (i : Instr) (s s' : State), i ≠ .cacc →
    s' = { s with
      fault := s'.fault, flags := s'.flags, acc := s'.acc, raddr := s'.raddr, rcode := s'.rcode, rerr := s'.rerr
      poff := s'.poff, plen := s'.plen } →
    ∃ t t', exec i s = .next t ∧ exec i s' = .next t' ∧
      t.mem = t'.mem ∧ t.len = t'.len ∧ t.fault = t'.fault ∧
      (t.acc = t'.acc ∨ (t.acc = s.acc ∧ t'.acc = s'.acc)) ∧
      (t.flags.valid = t'.flags.valid ∨ (t.flags.valid = s.flags.valid ∧ t'.flags.valid = s'.flags.valid)) ∧
      (t.flags.matched = t'.flags.matched ∨ (t.flags.matched = s.flags.matched ∧ t'.flags.matched = s'.flags.matched)) ∧
      (t.flags.kind = t'.flags.kind ∨ (t.flags.kind = s.flags.kind ∧ t'.flags.kind = s'.flags.kind)) ∧
      ((t.raddr = t'.raddr ∧ t.rcode = t'.rcode ∧ t.rerr = t'.rerr ∧ t.poff = t'.poff ∧ t.plen = t'.plen) ∨
        (t.raddr = s.raddr ∧ t.rcode = s.rcode ∧ t.rerr = s.rerr ∧ t.poff = s.poff ∧ t.plen = s.plen ∧
          t'.raddr = s'.raddr ∧ t'.rcode = s'.rcode ∧ t'.rerr = s'.rerr ∧ t'.poff = s'.poff ∧ t'.plen = s'.plen))

/-- R65: an operation reads no buffer cell but FBUF[0..LEN-1] and ABUF[0..ALEN-1]. Two states that differ in other cells only (the
draw included, log 3) come out the same in every register, and a cell an operation writes comes out the same. -/
def Obligations.OperationsReadCurrentSequencesOnly : Prop :=
  ∀ (i : Instr) (s s' : State), s' = { s with mem := s'.mem, draw := s'.draw } →
    (∀ k, k < s.len.toNat → s'.cell (0x1000 + k) = s.cell (0x1000 + k)) →
    (∀ k, k < s.alen.toNat → s'.cell (0x2000 + k) = s.cell (0x2000 + k)) →
    ∃ t t', exec i s = .next t ∧ exec i s' = .next t' ∧ t' = { t with mem := t'.mem, draw := s'.draw } ∧
      ∀ a, t'.cell a = t.cell a ∨ (t.cell a = s.cell a ∧ t'.cell a = s'.cell a)

/-- R38: only a CMD write that runs DECR or DECQ without a fault sets VALID. -/
def Obligations.OnlyDecodersSetValid : Prop :=
  ∀ s t : State, step s = .next t → s.flags.valid = false → t.flags.valid = true →
    ∃ v rest, s.input = .write 0x0000#16 v :: rest ∧ (decode v = .ok .decr ∨ decode v = .ok .decq) ∧
      t.fault = .none ∧ t.flags.matched = true

/-- R202, R39: FAULT changes only by a write of CMD or by reset. -/
def Obligations.FaultChangesOnlyByCommand : Prop :=
  ∀ s t : State, step s = .next t → t.fault ≠ s.fault →
    ∃ rest, s.input = .reset :: rest ∨ ∃ v, s.input = .write 0x0000#16 v :: rest

/-- R45, R65, R69: a buffer byte changes only by a reset, by a host write of that cell, or, inside FBUF[0..LEN-1] of the new frame,
by an encoder; between these a cell keeps its byte, written or not (a reset's new draw: log 3). -/
def Obligations.CellKeepsByteUntilWritten : Prop :=
  ∀ (s t : State) (a : Nat), s.Inv → step s = .next t → t.cell a ≠ s.cell a →
    ∃ rest, s.input = .reset :: rest ∨
      (∃ k v : Word, s.input = .write k v :: rest ∧ k.toNat = a ∧ t.cell a = v.extractLsb' 0 8) ∨
      (∃ v i, s.input = .write 0x0000#16 v :: rest ∧ decode v = .ok i ∧ (i = .encq ∨ i = .encok ∨ i = .encer) ∧
        0x1000 ≤ a ∧ a < 0x1000 + t.len.toNat)
end

