-- ==== Sys2Proof/Laws/State.lean ====
section
/-! SUPPORT. One lemma per field of `State` for each shared update of Machine/Ops.lean, so that no later proof unfolds a record
update. -/

namespace Sys2Proof.Machine

/-! ### Completing and raising: only FAULT is written -/

@[simp] theorem State.complete_cmd (s : State) : s.complete.cmd = s.cmd := rfl
@[simp] theorem State.complete_flags (s : State) : s.complete.flags = s.flags := rfl
@[simp] theorem State.complete_fault (s : State) : s.complete.fault = .none := rfl
@[simp] theorem State.complete_acc (s : State) : s.complete.acc = s.acc := rfl
@[simp] theorem State.complete_claim (s : State) : s.complete.claim = s.claim := rfl
@[simp] theorem State.complete_din (s : State) : s.complete.din = s.din := rfl
@[simp] theorem State.complete_len (s : State) : s.complete.len = s.len := rfl
@[simp] theorem State.complete_alen (s : State) : s.complete.alen = s.alen := rfl
@[simp] theorem State.complete_addr (s : State) : s.complete.addr = s.addr := rfl
@[simp] theorem State.complete_code (s : State) : s.complete.code = s.code := rfl
@[simp] theorem State.complete_raddr (s : State) : s.complete.raddr = s.raddr := rfl
@[simp] theorem State.complete_rcode (s : State) : s.complete.rcode = s.rcode := rfl
@[simp] theorem State.complete_rerr (s : State) : s.complete.rerr = s.rerr := rfl
@[simp] theorem State.complete_poff (s : State) : s.complete.poff = s.poff := rfl
@[simp] theorem State.complete_plen (s : State) : s.complete.plen = s.plen := rfl
@[simp] theorem State.complete_mem (s : State) : s.complete.mem = s.mem := rfl
@[simp] theorem State.complete_cfg (s : State) : s.complete.cfg = s.cfg := rfl
@[simp] theorem State.complete_draw (s : State) : s.complete.draw = s.draw := rfl
@[simp] theorem State.complete_input (s : State) : s.complete.input = s.input := rfl
@[simp] theorem State.complete_reply (s : State) : s.complete.reply = s.reply := rfl
@[simp] theorem State.raise_cmd (f : FaultCode) (s : State) : (s.raise f).cmd = s.cmd := rfl
@[simp] theorem State.raise_flags (f : FaultCode) (s : State) : (s.raise f).flags = s.flags := rfl
@[simp] theorem State.raise_fault (f : FaultCode) (s : State) : (s.raise f).fault = f := rfl
@[simp] theorem State.raise_acc (f : FaultCode) (s : State) : (s.raise f).acc = s.acc := rfl
@[simp] theorem State.raise_claim (f : FaultCode) (s : State) : (s.raise f).claim = s.claim := rfl
@[simp] theorem State.raise_din (f : FaultCode) (s : State) : (s.raise f).din = s.din := rfl
@[simp] theorem State.raise_len (f : FaultCode) (s : State) : (s.raise f).len = s.len := rfl
@[simp] theorem State.raise_alen (f : FaultCode) (s : State) : (s.raise f).alen = s.alen := rfl
@[simp] theorem State.raise_addr (f : FaultCode) (s : State) : (s.raise f).addr = s.addr := rfl
@[simp] theorem State.raise_code (f : FaultCode) (s : State) : (s.raise f).code = s.code := rfl
@[simp] theorem State.raise_raddr (f : FaultCode) (s : State) : (s.raise f).raddr = s.raddr := rfl
@[simp] theorem State.raise_rcode (f : FaultCode) (s : State) : (s.raise f).rcode = s.rcode := rfl
@[simp] theorem State.raise_rerr (f : FaultCode) (s : State) : (s.raise f).rerr = s.rerr := rfl
@[simp] theorem State.raise_poff (f : FaultCode) (s : State) : (s.raise f).poff = s.poff := rfl
@[simp] theorem State.raise_plen (f : FaultCode) (s : State) : (s.raise f).plen = s.plen := rfl
@[simp] theorem State.raise_mem (f : FaultCode) (s : State) : (s.raise f).mem = s.mem := rfl
@[simp] theorem State.raise_cfg (f : FaultCode) (s : State) : (s.raise f).cfg = s.cfg := rfl
@[simp] theorem State.raise_draw (f : FaultCode) (s : State) : (s.raise f).draw = s.draw := rfl
@[simp] theorem State.raise_input (f : FaultCode) (s : State) : (s.raise f).input = s.input := rfl
@[simp] theorem State.raise_reply (f : FaultCode) (s : State) : (s.raise f).reply = s.reply := rfl

/-! ### Clearing the results: only RADDR, RCODE, RERR, POFF, PLEN are written -/

@[simp] theorem State.clearResults_cmd (s : State) : s.clearResults.cmd = s.cmd := rfl
@[simp] theorem State.clearResults_flags (s : State) : s.clearResults.flags = s.flags := rfl
@[simp] theorem State.clearResults_fault (s : State) : s.clearResults.fault = s.fault := rfl
@[simp] theorem State.clearResults_acc (s : State) : s.clearResults.acc = s.acc := rfl
@[simp] theorem State.clearResults_claim (s : State) : s.clearResults.claim = s.claim := rfl
@[simp] theorem State.clearResults_din (s : State) : s.clearResults.din = s.din := rfl
@[simp] theorem State.clearResults_len (s : State) : s.clearResults.len = s.len := rfl
@[simp] theorem State.clearResults_alen (s : State) : s.clearResults.alen = s.alen := rfl
@[simp] theorem State.clearResults_addr (s : State) : s.clearResults.addr = s.addr := rfl
@[simp] theorem State.clearResults_code (s : State) : s.clearResults.code = s.code := rfl
@[simp] theorem State.clearResults_raddr (s : State) : s.clearResults.raddr = 0#7 := rfl
@[simp] theorem State.clearResults_rcode (s : State) : s.clearResults.rcode = 0x00#8 := rfl
@[simp] theorem State.clearResults_rerr (s : State) : s.clearResults.rerr = 0x0000#16 := rfl
@[simp] theorem State.clearResults_poff (s : State) : s.clearResults.poff = 0#13 := rfl
@[simp] theorem State.clearResults_plen (s : State) : s.clearResults.plen = 0#13 := rfl
@[simp] theorem State.clearResults_mem (s : State) : s.clearResults.mem = s.mem := rfl
@[simp] theorem State.clearResults_cfg (s : State) : s.clearResults.cfg = s.cfg := rfl
@[simp] theorem State.clearResults_draw (s : State) : s.clearResults.draw = s.draw := rfl
@[simp] theorem State.clearResults_input (s : State) : s.clearResults.input = s.input := rfl
@[simp] theorem State.clearResults_reply (s : State) : s.clearResults.reply = s.reply := rfl

/-! ### Storing a frame: only FBUF and LEN are written -/

@[simp] theorem State.storeFrame_cmd (r : Bytes) (s : State) : (s.storeFrame r).cmd = s.cmd := rfl
@[simp] theorem State.storeFrame_flags (r : Bytes) (s : State) : (s.storeFrame r).flags = s.flags := rfl
@[simp] theorem State.storeFrame_fault (r : Bytes) (s : State) : (s.storeFrame r).fault = s.fault := rfl
@[simp] theorem State.storeFrame_acc (r : Bytes) (s : State) : (s.storeFrame r).acc = s.acc := rfl
@[simp] theorem State.storeFrame_claim (r : Bytes) (s : State) : (s.storeFrame r).claim = s.claim := rfl
@[simp] theorem State.storeFrame_din (r : Bytes) (s : State) : (s.storeFrame r).din = s.din := rfl
@[simp] theorem State.storeFrame_len (r : Bytes) (s : State) : (s.storeFrame r).len = BitVec.ofNat 13 r.length := rfl
@[simp] theorem State.storeFrame_alen (r : Bytes) (s : State) : (s.storeFrame r).alen = s.alen := rfl
@[simp] theorem State.storeFrame_addr (r : Bytes) (s : State) : (s.storeFrame r).addr = s.addr := rfl
@[simp] theorem State.storeFrame_code (r : Bytes) (s : State) : (s.storeFrame r).code = s.code := rfl
@[simp] theorem State.storeFrame_raddr (r : Bytes) (s : State) : (s.storeFrame r).raddr = s.raddr := rfl
@[simp] theorem State.storeFrame_rcode (r : Bytes) (s : State) : (s.storeFrame r).rcode = s.rcode := rfl
@[simp] theorem State.storeFrame_rerr (r : Bytes) (s : State) : (s.storeFrame r).rerr = s.rerr := rfl
@[simp] theorem State.storeFrame_poff (r : Bytes) (s : State) : (s.storeFrame r).poff = s.poff := rfl
@[simp] theorem State.storeFrame_plen (r : Bytes) (s : State) : (s.storeFrame r).plen = s.plen := rfl
@[simp] theorem State.storeFrame_mem (r : Bytes) (s : State) : (s.storeFrame r).mem = s.mem.writeSeq Config.fbufBase r := rfl
@[simp] theorem State.storeFrame_cfg (r : Bytes) (s : State) : (s.storeFrame r).cfg = s.cfg := rfl
@[simp] theorem State.storeFrame_draw (r : Bytes) (s : State) : (s.storeFrame r).draw = s.draw := rfl
@[simp] theorem State.storeFrame_input (r : Bytes) (s : State) : (s.storeFrame r).input = s.input := rfl
@[simp] theorem State.storeFrame_reply (r : Bytes) (s : State) : (s.storeFrame r).reply = s.reply := rfl

/-! ### Reset as an event: every register at its reset value, the parameter and the pending input kept -/

@[simp] theorem State.applyReset_cmd (s : State) : s.applyReset.cmd = 0#16 := rfl
@[simp] theorem State.applyReset_flags (s : State) : s.applyReset.flags = ⟨false, false, false⟩ := rfl
@[simp] theorem State.applyReset_fault (s : State) : s.applyReset.fault = .none := rfl
@[simp] theorem State.applyReset_acc (s : State) : s.applyReset.acc = 0#8 := rfl
@[simp] theorem State.applyReset_claim (s : State) : s.applyReset.claim = 0#16 := rfl
@[simp] theorem State.applyReset_din (s : State) : s.applyReset.din = 0#8 := rfl
@[simp] theorem State.applyReset_len (s : State) : s.applyReset.len = 0#13 := rfl
@[simp] theorem State.applyReset_alen (s : State) : s.applyReset.alen = 0#13 := rfl
@[simp] theorem State.applyReset_addr (s : State) : s.applyReset.addr = 0#16 := rfl
@[simp] theorem State.applyReset_code (s : State) : s.applyReset.code = 0#8 := rfl
@[simp] theorem State.applyReset_raddr (s : State) : s.applyReset.raddr = 0#7 := rfl
@[simp] theorem State.applyReset_rcode (s : State) : s.applyReset.rcode = 0#8 := rfl
@[simp] theorem State.applyReset_rerr (s : State) : s.applyReset.rerr = 0#16 := rfl
@[simp] theorem State.applyReset_poff (s : State) : s.applyReset.poff = 0#13 := rfl
@[simp] theorem State.applyReset_plen (s : State) : s.applyReset.plen = 0#13 := rfl
@[simp] theorem State.applyReset_mem (s : State) : s.applyReset.mem = [] := rfl
@[simp] theorem State.applyReset_cfg (s : State) : s.applyReset.cfg = s.cfg := rfl
@[simp] theorem State.applyReset_draw (s : State) : s.applyReset.draw = s.draw + 1 := rfl
@[simp] theorem State.applyReset_input (s : State) : s.applyReset.input = s.input := rfl
@[simp] theorem State.applyReset_reply (s : State) : s.applyReset.reply = .idle := rfl

end Sys2Proof.Machine
end

