-- ==== Sys2Proof/Laws/Memory.lean ====
section
/-! SUPPORT. The laws of the buffer memory: reading after a write, the canonical form kept by every memory operation, and the byte
sequences read from consecutive cells. -/

namespace Sys2Proof.Machine

/-! ### Read after write -/

theorem Memory.read_write (m : Memory) (a : Nat) (b : Byte) (k : Nat) :
    (m.write a b).read k = if k = a then some b else m.read k := by
  induction m with
  | nil => simp [Memory.write, Memory.read, eq_comm]
  | cons c m ih =>
    obtain ⟨j, d⟩ := c
    unfold Memory.write
    split
    · simp only [Memory.read, eq_comm (a := k)]
    · split
      · subst a
        simp only [Memory.read, eq_comm (a := k)]
        split <;> simp_all
      · simp only [Memory.read, ih, eq_comm (a := k)]
        split <;> split <;> simp_all

@[simp] theorem Memory.read_write_same (m : Memory) (a : Nat) (b : Byte) : (m.write a b).read a = some b := by
  simp [Memory.read_write]

theorem Memory.read_write_other (m : Memory) {a k : Nat} (b : Byte) (h : k ≠ a) : (m.write a b).read k = m.read k := by
  simp [Memory.read_write, h]

theorem Memory.read_writeSeq_other (r : Bytes) (m : Memory) (a k : Nat) (h : k < a ∨ a + r.length ≤ k) :
    (m.writeSeq a r).read k = m.read k := by
  induction r generalizing m a with
  | nil => rfl
  | cons b r ih =>
    simp only [List.length_cons] at h
    rw [Memory.writeSeq, ih _ _ (by omega), Memory.read_write_other _ _ (by omega)]

theorem Memory.read_writeSeq_get (r : Bytes) (m : Memory) (a i : Nat) (b : Byte) (h : r[i]? = some b) :
    (m.writeSeq a r).read (a + i) = some b := by
  induction r generalizing m a i with
  | nil => simp at h
  | cons c r ih =>
    rw [Memory.writeSeq]
    cases i with
    | zero =>
      rw [Memory.read_writeSeq_other _ _ _ _ (by omega)]
      simpa [Memory.read_write_same] using h
    | succ i =>
      rw [show a + (i + 1) = a + 1 + i by omega]
      exact ih _ _ _ (by simpa using h)

/-! ### The addresses listed, and the canonical form -/

theorem Memory.mem_write {m : Memory} {a : Nat} {b : Byte} {c : Host.Cell} (h : c ∈ m.write a b) : c.1 = a ∨ c ∈ m := by
  induction m with
  | nil => simp_all [Memory.write]
  | cons d m ih =>
    obtain ⟨j, d⟩ := d
    unfold Memory.write at h
    split at h
    · rcases List.mem_cons.1 h with rfl | h
      · exact .inl rfl
      · exact .inr h
    · split at h
      · rcases List.mem_cons.1 h with rfl | h
        · exact .inl rfl
        · exact .inr (List.mem_cons_of_mem _ h)
      · rcases List.mem_cons.1 h with rfl | h
        · exact .inr (List.mem_cons_self ..)
        · exact (ih h).imp_right (List.mem_cons_of_mem _)

theorem Memory.mem_writeSeq {r : Bytes} {m : Memory} {a : Nat} {c : Host.Cell} (h : c ∈ m.writeSeq a r) :
    (a ≤ c.1 ∧ c.1 < a + r.length) ∨ c ∈ m := by
  induction r generalizing m a with
  | nil => exact .inr h
  | cons b r ih =>
    rcases ih h with h | h
    · exact .inl ⟨by omega, by simp only [List.length_cons]; omega⟩
    · rcases Memory.mem_write h with h | h
      · exact .inl ⟨by omega, by simp only [List.length_cons]; omega⟩
      · exact .inr h

/-- A write keeps the canonical form. -/
theorem Memory.write_wf {m : Memory} (h : Memory.wf m) (a : Nat) (b : Byte) : Memory.wf (m.write a b) := by
  induction m with
  | nil => simp [Memory.write, Memory.wf]
  | cons c m ih =>
    obtain ⟨j, d⟩ := c
    have hm : Memory.wf m := List.Pairwise.of_cons h
    have hj : ∀ c ∈ m, j < c.1 := fun c hc => List.rel_of_pairwise_cons h hc
    unfold Memory.write
    split
    · refine List.pairwise_cons.2 ⟨?_, h⟩
      intro c hc
      rcases List.mem_cons.1 hc with rfl | hc
      · assumption
      · exact lt_trans ‹a < j› (hj c hc)
    · split
      · subst a
        exact List.pairwise_cons.2 ⟨hj, hm⟩
      · refine List.pairwise_cons.2 ⟨fun c hc => ?_, ih hm⟩
        rcases Memory.mem_write hc with h' | h'
        · change j < c.1; omega
        · exact hj c h'

/-- Storing a byte sequence keeps the canonical form. -/
theorem Memory.writeSeq_wf {r : Bytes} {m : Memory} (h : Memory.wf m) (a : Nat) : Memory.wf (m.writeSeq a r) := by
  induction r generalizing m a with
  | nil => exact h
  | cons b r ih => exact ih (Memory.write_wf h a b) (a + 1)

/-- The reset state's memory has the canonical form. -/
theorem State.resetWith_memWf (c : Config) (d : Nat) : Memory.wf (State.resetWith c d).mem := List.Pairwise.nil

/-! ### Cells -/

/-- A cell depends on the memory and on the draw alone. -/
theorem State.cell_congr {s t : State} (hm : t.mem = s.mem) (hd : t.draw = s.draw) (a : Nat) : t.cell a = s.cell a := by
  rw [State.cell, State.cell, hm, hd]

theorem State.cells_congr {s t : State} (hm : t.mem = s.mem) (hd : t.draw = s.draw) (a n : Nat) :
    t.cells a n = s.cells a n := by
  induction n generalizing a with
  | zero => rfl
  | succ n ih => rw [State.cells, State.cells, ih, State.cell_congr hm hd]

@[simp] theorem State.cells_length (s : State) (a n : Nat) : (s.cells a n).length = n := by
  induction n generalizing a with
  | zero => rfl
  | succ n ih => simp [State.cells, ih]

theorem State.cells_getElem? (s : State) (a n i : Nat) (h : i < n) : (s.cells a n)[i]? = some (s.cell (a + i)) := by
  induction n generalizing a i with
  | zero => omega
  | succ n ih =>
    cases i with
    | zero => simp [State.cells]
    | succ i =>
      rw [State.cells, List.getElem?_cons_succ, ih _ _ (by omega)]
      congr 2; omega

/-- Consecutive cells that hold a byte sequence read as it. -/
theorem State.cells_eq_of_get (s : State) (a : Nat) (r : Bytes) (h : ∀ i b, r[i]? = some b → s.cell (a + i) = b) :
    s.cells a r.length = r := by
  induction r generalizing a with
  | nil => rfl
  | cons b r ih =>
    rw [List.length_cons, State.cells, ih (a + 1) fun i c hc => ?_, show s.cell a = b from h 0 b rfl]
    rw [show a + 1 + i = a + (i + 1) by omega]
    exact h (i + 1) c (by simpa using hc)

/-- A frame stored in FBUF reads back byte for byte, and no other cell changes (R156). -/
theorem State.storeFrame_cell_get (r : Bytes) (s : State) (i : Nat) (b : Byte) (h : r[i]? = some b) :
    (s.storeFrame r).cell (Config.fbufBase + i) = b := by
  simp [State.cell, Memory.read_writeSeq_get r s.mem Config.fbufBase i b h]

theorem State.storeFrame_cell_other (r : Bytes) (s : State) (a : Nat)
    (h : a < Config.fbufBase ∨ Config.fbufBase + r.length ≤ a) : (s.storeFrame r).cell a = s.cell a := by
  simp [State.cell, Memory.read_writeSeq_other r s.mem Config.fbufBase a h]

end Sys2Proof.Machine
end

