-- ==== Sys2Proof/Laws/Operations.lean ====
section
/-! SUPPORT. One lemma per shared operation that says everything it can do: the scans of a byte sequence, the decoder's stages, the
common effects of the encoders and of the decoders, the address map, a register write and a host access. -/

namespace Sys2Proof.Machine

/-! ### The checksum and the scans -/

theorem csum_append (s t : Bytes) : csum (s ++ t) = csum s + csum t := by
  induction s with
  | nil => simp [csum]
  | cons b s ih => simp [csum, ih, BitVec.add_assoc]

theorem verify_length {s c : Bytes} (h : verify s c = true) : c.length = 2 := by
  unfold verify at h
  split at h
  · rfl
  · cases h

/-- `first` answers an index exactly when the byte stands there and nowhere before. -/
theorem firstIdx_eq_some {b : Byte} {s : Bytes} {k : Nat} :
    firstIdx b s = some k ↔ ∃ x y, s = x ++ b :: y ∧ b ∉ x ∧ x.length = k := by
  induction s generalizing k with
  | nil => simp [firstIdx]
  | cons c s ih =>
    by_cases hc : c = b
    · subst hc
      constructor
      · intro h
        exact ⟨[], s, rfl, List.not_mem_nil, by simpa [firstIdx] using h⟩
      · rintro ⟨x, y, hs, hx, rfl⟩
        cases x with
        | nil => simp [firstIdx]
        | cons d x =>
          simp only [List.cons_append, List.cons.injEq] at hs
          simp [hs.1] at hx
    · simp only [firstIdx, hc, if_false, Option.map_eq_some_iff]
      constructor
      · rintro ⟨j, hj, rfl⟩
        obtain ⟨x, y, rfl, hx, rfl⟩ := ih.1 hj
        exact ⟨c :: x, y, rfl, by simp [hx, Ne.symm hc], rfl⟩
      · rintro ⟨x, y, hs, hx, rfl⟩
        cases x with
        | nil => simp only [List.nil_append, List.cons.injEq] at hs; exact absurd hs.1 hc
        | cons d x =>
          simp only [List.cons_append, List.cons.injEq] at hs
          simp only [List.mem_cons, not_or] at hx
          exact ⟨x.length, ih.2 ⟨x, y, hs.2, hx.2, rfl⟩, rfl⟩

theorem lastIdx_eq_none {b : Byte} {s : Bytes} (h : b ∉ s) : lastIdx b s = none := by
  induction s with
  | nil => rfl
  | cons c s ih =>
    simp only [List.mem_cons, not_or] at h
    simp [lastIdx, ih h.2, Ne.symm h.1]

theorem lastIdx_append {b : Byte} {s t : Bytes} (h : b ∉ t) : lastIdx b (s ++ b :: t) = some s.length := by
  induction s with
  | nil => simp [lastIdx, lastIdx_eq_none h]
  | cons c s ih => simp [lastIdx, ih]

/-! ### The decoder's stages -/

/-- Stage 1 gives the body exactly of a sequence that ends in its only terminator (R170). -/
theorem frameBody_eq_some {raw body : Bytes} :
    frameBody raw = some body ↔ raw = body ++ [Config.term] ∧ Config.term ∉ body := by
  unfold frameBody
  constructor
  · intro h
    split_ifs at h with h0 h1
    push Not at h1
    obtain ⟨x, y, rfl, hx, hl⟩ := firstIdx_eq_some.1 h1
    have hy : y = [] := by
      simp only [List.length_append, List.length_cons] at hl
      exact List.length_eq_zero_iff.1 (by omega)
    subst hy
    cases h
    exact ⟨by simp, by simpa using hx⟩
  · rintro ⟨rfl, h⟩
    have : firstIdx Config.term (body ++ [Config.term]) = some body.length := firstIdx_eq_some.2 ⟨body, [], rfl, h, rfl⟩
    simp [this]

/-- Stage 2 on a body without a separator (R171). -/
theorem splitBody_eq_none {body : Bytes} (h : Config.sep ∉ body) : splitBody body = none := by
  simp only [splitBody, lastIdx_eq_none h]

/-- Stage 2 on a body with one (R171). -/
theorem splitBody_append (h cl : Bytes) (hc : Config.sep ∉ cl) :
    splitBody (h ++ Config.sep :: cl) = some { pre := h ++ [Config.sep], claimed := cl, fields := h } := by
  simp only [splitBody, lastIdx_append hc]
  simp [List.take_append, List.drop_append]

/-- The stages together: no body or no separator, a checksum that does not verify, or the field stage on the fields before the last
separator (R170 to R172). -/
theorem runStages_cases {α : Type} (fieldStage : Bytes → Except FrameFault α) (raw : Bytes) :
    ((frameBody raw = none ∨ ∃ body, frameBody raw = some body ∧ splitBody body = none) ∧
      runStages fieldStage raw = { result := .error .malformedFrame, acc := none, stage3Passed := false }) ∨
    ∃ body p, frameBody raw = some body ∧ splitBody body = some p ∧
      ((verify p.pre p.claimed = false ∧
          runStages fieldStage raw =
            { result := .error .checksumMismatch, acc := some (csum p.pre), stage3Passed := false }) ∨
        (verify p.pre p.claimed = true ∧
          runStages fieldStage raw =
            { result := fieldStage p.fields, acc := some (csum p.pre), stage3Passed := true })) := by
  unfold runStages
  cases hb : frameBody raw with
  | none => exact .inl ⟨.inl rfl, rfl⟩
  | some body =>
    cases hs : splitBody body with
    | none => exact .inl ⟨.inr ⟨body, rfl, hs⟩, by simp only [hs]⟩
    | some p =>
      refine .inr ⟨body, p, rfl, hs, ?_⟩
      simp only [hs]
      cases hv : verify p.pre p.claimed with
      | false => exact .inl ⟨rfl, by simp⟩
      | true => exact .inr ⟨rfl, by simp [verify_length hv]⟩

/-! ### The common effects of the encoders and of the decoders -/

/-- What an encoder operation does with the value of its function (R156, R216). -/
theorem applyEncoder_cases (r : Except FrameFault Bytes) (s : State) :
    (∃ f, r = .error f ∧ applyEncoder r s = { s with fault := faultCodeOf f }) ∨
    ∃ b, r = .ok b ∧ applyEncoder r s = { s with
      mem := s.mem.writeSeq Config.fbufBase b, len := BitVec.ofNat 13 b.length, acc := csum (b.take (b.length - 3))
      raddr := 0#7, rcode := 0#8, rerr := 0#16, poff := 0#13, plen := 0#13
      flags := { s.flags with valid := false, kind := false }, fault := .none } := by
  cases r with
  | error f => exact .inl ⟨f, rfl, rfl⟩
  | ok b => exact .inr ⟨b, rfl, rfl⟩

/-- What a decoder operation does with the result of its stages (R172, R176, R182, R217). -/
theorem applyDecoder_cases {α : Type} (deliver : α → State → State) (d : DecodeRun α) (s : State) :
    (∃ f, d.result = .error f ∧ applyDecoder deliver d s = { s with
      acc := d.acc.getD s.acc, raddr := 0#7, rcode := 0#8, rerr := 0#16, poff := 0#13, plen := 0#13
      flags := { valid := false, matched := d.stage3Passed, kind := false }, fault := faultCodeOf f }) ∨
    ∃ x, d.result = .ok x ∧
      applyDecoder deliver d s = { deliver x { s with acc := d.acc.getD s.acc } with fault := .none } := by
  rcases d with ⟨r, a, p⟩
  cases r with
  | error f => exact .inl ⟨f, rfl, rfl⟩
  | ok x => exact .inr ⟨x, rfl, rfl⟩

/-! ### The address map and the host's accesses -/

@[simp] theorem targetOf_number (c : Config) (r : Reg) : targetOf c (BitVec.ofNat 16 r.number) = some (.reg r) := by
  cases r <;> rfl

/-- An address that names a cell is that cell's own, inside FBUF or inside ABUF (R61). -/
theorem targetOf_eq_cell {c : Config} {a : Word} {k : Nat} (h : targetOf c a = some (.cell k)) :
    k = a.toNat ∧ ((Config.fbufBase ≤ k ∧ k < Config.fbufBase + c.frameMax) ∨
      (Config.abufBase ≤ k ∧ k < Config.abufBase + c.argMax)) := by
  simp only [targetOf] at h
  split_ifs at h with h1 h2 h3
  · cases hr : Reg.ofNumber a.toNat <;> simp [hr] at h
  · cases h; exact ⟨rfl, .inl h2⟩
  · cases h; exact ⟨rfl, .inr h3⟩

/-- An address that names a register is its number (R61). -/
theorem targetOf_eq_reg {c : Config} {a : Word} {r : Reg} (h : targetOf c a = some (.reg r)) : a.toNat = r.number := by
  simp only [targetOf] at h
  split_ifs at h with h1
  · generalize a.toNat = n at h h1
    interval_cases n <;> (cases h; rfl)
  all_goals cases h

/-- A register write stores in its own register alone: everything else is as before. -/
theorem writeReg_frame (s : State) (v : Word) (r : Reg) :
    s.writeReg v r = { s with
      cmd := (s.writeReg v r).cmd, claim := (s.writeReg v r).claim, din := (s.writeReg v r).din
      len := (s.writeReg v r).len, alen := (s.writeReg v r).alen, addr := (s.writeReg v r).addr
      code := (s.writeReg v r).code } := by
  cases r <;> rfl

/-- What a host read does (R62, R67): refused, or the value read and nothing else. -/
theorem hostRead_cases (a : Word) (s : State) :
    (targetOf s.cfg a = none ∧ hostRead a s = .refused (.unmappedAccess a)) ∨
    (∃ r, targetOf s.cfg a = some (.reg r) ∧ hostRead a s = .next { s with reply := .hostData (s.readReg r) }) ∨
    (targetOf s.cfg a = some (.cell a.toNat) ∧
      hostRead a s = .next { s with reply := .hostData ((s.cell a.toNat).setWidth 16) }) := by
  rcases h : targetOf s.cfg a with _ | r | k
  · exact .inl ⟨rfl, by simp only [hostRead, State.readValue, h]⟩
  · exact .inr (.inl ⟨r, rfl, by simp only [hostRead, State.readValue, h]⟩)
  · obtain ⟨rfl, -⟩ := targetOf_eq_cell h
    exact .inr (.inr ⟨rfl, by simp only [hostRead, State.readValue, h]⟩)

/-- What a host write does (R62, R66, R67): refused, an operation, a register, or a cell. -/
theorem hostWrite_cases (a v : Word) (s : State) :
    (targetOf s.cfg a = none ∧ hostWrite a v s = .refused (.unmappedAccess a)) ∨
    (a = 0x0000#16 ∧ hostWrite a v s = runCommand v { s with cmd := v, reply := .hostOk }) ∨
    (∃ r, r ≠ .cmd ∧ targetOf s.cfg a = some (.reg r) ∧ hostWrite a v s = .next { s.writeReg v r with reply := .hostOk }) ∨
    (targetOf s.cfg a = some (.cell a.toNat) ∧
      hostWrite a v s = .next { s with mem := s.mem.write a.toNat (v.setWidth 8), reply := .hostOk }) := by
  cases h : targetOf s.cfg a with
  | none => exact .inl ⟨rfl, by simp [hostWrite, h]⟩
  | some t =>
    cases t with
    | cell k =>
      obtain ⟨rfl, -⟩ := targetOf_eq_cell h
      exact .inr (.inr (.inr ⟨rfl, by simp [hostWrite, h]⟩))
    | reg r =>
      by_cases hr : r = .cmd
      · subst hr
        exact .inr (.inl ⟨BitVec.eq_of_toNat_eq (targetOf_eq_reg h), by simp only [hostWrite, h]; rfl⟩)
      · refine .inr (.inr (.inl ⟨r, hr, rfl, ?_⟩))
        cases r <;> first | exact absurd rfl hr | simp only [hostWrite, h]

/-- What the block holds after an event: what the event leaves, or after a refused access everything as before (R67). -/
theorem afterEvent_cases (e : HostEvent) (s : State) :
    applyEvent e s = .next (afterEvent e s) ∨
    ∃ r, applyEvent e s = .refused r ∧ afterEvent e s = { s with reply := .hostErr } := by
  unfold afterEvent
  rcases applyEvent e s with t | f | r
  · exact .inl rfl
  · exact nomatch f
  · exact .inr ⟨r, rfl, rfl⟩

end Sys2Proof.Machine
end

