-- ==== Sys2Proof/Laws/PerInstr.lean ====
section
/-! SUPPORT. What holds of every operation as syntax (R100, R102), one lemma per constructor. -/

namespace Sys2Proof.Laws

/-- The operation is well formed, its command word lies in the table's range, and the decoder reads it back from the word's
sixteen bits. -/
def CommandWord.Statement (i : Instr) : Prop :=
  i.wf = true ∧ (encode i).toNat ≤ 9 ∧ decodeTableWord 16 (encode i).toNat = some i

theorem CommandWord.nop : CommandWord.Statement .nop := ⟨rfl, by decide, rfl⟩
theorem CommandWord.cclr : CommandWord.Statement .cclr := ⟨rfl, by decide, rfl⟩
theorem CommandWord.cacc : CommandWord.Statement .cacc := ⟨rfl, by decide, rfl⟩
theorem CommandWord.csum : CommandWord.Statement .csum := ⟨rfl, by decide, rfl⟩
theorem CommandWord.cvfy : CommandWord.Statement .cvfy := ⟨rfl, by decide, rfl⟩
theorem CommandWord.encq : CommandWord.Statement .encq := ⟨rfl, by decide, rfl⟩
theorem CommandWord.decr : CommandWord.Statement .decr := ⟨rfl, by decide, rfl⟩
theorem CommandWord.encok : CommandWord.Statement .encok := ⟨rfl, by decide, rfl⟩
theorem CommandWord.encer : CommandWord.Statement .encer := ⟨rfl, by decide, rfl⟩
theorem CommandWord.decq : CommandWord.Statement .decq := ⟨rfl, by decide, rfl⟩

end Sys2Proof.Laws
end

