-- ==== Sys2Proof/Tests/Slice0.lean ====
section
/-! SUPPORT. Tests of this model: ill-formed terms refused, command words written out bit by bit, the spec's worked examples of each
operation (95_test_vectors.md and the rules cited), and a witness for the hypotheses of every obligation. -/

open Sys2Proof Sys2Proof.Machine

namespace Sys2Proof.Tests

/-! ### Helpers -/

/-- The state after reset with `frame` loaded in FBUF and LEN its length. -/
def loaded (frame : Bytes) : State :=
  { State.reset with mem := Memory.writeSeq [] 0x1000 frame, len := BitVec.ofNat 13 frame.length }

/-- The state after reset with `g` loaded in ABUF, ALEN its length, and ADDR and CODE given. -/
def operands (a : Word) (c : Byte) (g : Bytes) : State :=
  { State.reset with mem := Memory.writeSeq [] 0x2000 g, alen := BitVec.ofNat 13 g.length, addr := a, code := c }

/-- The state after reset with one access pending. -/
def pending (e : HostEvent) : State := { State.reset with input := [e] }

/-- The state a step leaves; the state it started in when it stopped. -/
def left (r : StepResult) : State :=
  match r with
  | .next t => t
  | .fault _ => State.reset
  | .refused _ => State.reset

/-- `~01 0B ` (R128, R129). -/
def prefix0B : Bytes := [0x7E, 0x30, 0x31, 0x20, 0x30, 0x42, 0x20]
/-- `~01 0B 91\r` (R153). -/
def request0B : Bytes := [0x7E, 0x30, 0x31, 0x20, 0x30, 0x42, 0x20, 0x39, 0x31, 0x0D]
/-- `~01 12 550 3C\r` (R182). -/
def request12 : Bytes := [0x7E, 0x30, 0x31, 0x20, 0x31, 0x32, 0x20, 0x35, 0x35, 0x30, 0x20, 0x33, 0x43, 0x0D]
/-- `01 OK 00 1.2E-07 45\r` (R154, R176). -/
def responseOk : Bytes :=
  [0x30, 0x31, 0x20, 0x4F, 0x4B, 0x20, 0x30, 0x30, 0x20, 0x31, 0x2E, 0x32, 0x45, 0x2D, 0x30, 0x37, 0x20, 0x34, 0x35, 0x0D]
/-- `01 ER 03 BB\r` (R155). -/
def responseEr : Bytes := [0x30, 0x31, 0x20, 0x45, 0x52, 0x20, 0x30, 0x33, 0x20, 0x42, 0x42, 0x0D]
/-- `1.2E-07` (R154). -/
def reading : Bytes := [0x31, 0x2E, 0x32, 0x45, 0x2D, 0x30, 0x37]

/-! ### Ill-formed terms are refused -/

theorem test_wf_parameter_low : ¬ ({ frameMax := 12 } : Config).Wf := by decide
theorem test_wf_parameter_high : ¬ ({ frameMax := 4097 } : Config).Wf := by decide
theorem test_wf_write_beyond_fbuf : (Line.wb .fbuf 256 0x00).wf Config.worked = false := by decide
theorem test_wf_write_beyond_abuf : (Line.wb .abuf 243 0x00).wf Config.worked = false := by decide
theorem test_wf_read_beyond_fbuf : (Line.rb .fbuf 256).wf Config.worked = false := by decide
theorem test_wf_read_beyond_abuf : (Line.rb .abuf 243).wf Config.worked = false := by decide
theorem test_wf_ldf_too_long : (PseudoLine.ldf (List.replicate 14 0)).wf { frameMax := 13 } = false := by decide
theorem test_wf_rdf_too_long : (PseudoLine.rdf (List.replicate 14 0)).wf { frameMax := 13 } = false := by decide
theorem test_wf_lda_too_long : (PseudoLine.lda [0x31]).wf { frameMax := 13 } = false := by decide
theorem test_wf_last_cells : (Line.wb .fbuf 255 0x00).wf Config.worked = true ∧ (Line.rb .abuf 242).wf Config.worked = true := by
  decide

/-! ### Command words written out from R100 and opcode_table.json -/

theorem test_decode_nop : decode 0b0000000000000000#16 = .ok .nop := rfl
theorem test_decode_cclr : decode 0b0000000000000001#16 = .ok .cclr := rfl
theorem test_decode_cacc : decode 0b0000000000000010#16 = .ok .cacc := rfl
theorem test_decode_csum : decode 0b0000000000000011#16 = .ok .csum := rfl
theorem test_decode_cvfy : decode 0b0000000000000100#16 = .ok .cvfy := rfl
theorem test_decode_encq : decode 0b0000000000000101#16 = .ok .encq := rfl
theorem test_decode_decr : decode 0b0000000000000110#16 = .ok .decr := rfl
theorem test_decode_encok : decode 0b0000000000000111#16 = .ok .encok := rfl
theorem test_decode_encer : decode 0b0000000000001000#16 = .ok .encer := rfl
theorem test_decode_decq : decode 0b0000000000001001#16 = .ok .decq := rfl
/-- No high bit is ignored (R37). -/
theorem test_decode_high_bit : decode 0x8005#16 = .error (.illegalCommand 0x8005#16) := rfl
theorem test_decode_table_word : decodeTableWord 16 0x0009 = some .decq ∧ decodeTableWord 16 0x000A = none := by decide
/-- The very next step runs the command word placed by `withFetchWord`. -/
theorem test_fetch_word_runs : step (State.reset.withFetchWord 16 0x0006) =
    exec .decr { State.reset with cmd := 0x0006, reply := .hostOk } := rfl
/-- The triples of `LDF "~"` and of `OP CSUM` (R104, R105). -/
theorem test_notation_encoding : (PseudoLine.ldf [0x7E]).encode ++ [(Line.op .csum).encode] =
    [.write 0x1000 0x007E, .write 0x0007 0x0001, .write 0x0000 0x0003] := by decide
theorem test_notation_stream : (PseudoLine.cstream [0x7E]).encode =
    [.write 0x0000 0x0001, .write 0x0006 0x007E, .write 0x0000 0x0002] := by decide

/-! ### Unmapped accesses (95_test_vectors.md H7 to H9 and P6) -/

theorem test_unmapped_read : step (pending (.read 0x0010)) = .refused (.unmappedAccess 0x0010) := rfl
theorem test_unmapped_write : step (pending (.write 0x1100 0x0000)) = .refused (.unmappedAccess 0x1100) := rfl
theorem test_unmapped_abuf : step (pending (.read 0x20F3)) = .refused (.unmappedAccess 0x20F3) := rfl
/-- A claim says nothing past the first of them (R67). -/
theorem test_run_refused : runScript [.read 0x0010, .write 0x0006 0x01FF] State.reset = .refused (.unmappedAccess 0x0010) := rfl
/-- The block applies the next triple as usual (R251). -/
theorem test_block_goes_on : (runEnd [.read 0x0010, .write 0x0006 0x01FF] State.reset).din = 0xFF := by decide

/-! ### The operations, on the spec's worked examples -/

/-- R200 -/
theorem test_nop : (left (exec .nop { State.reset with fault := .checksumMismatch })).fault = .none := by decide
/-- R126 -/
theorem test_cclr : (left (exec .cclr { State.reset with acc := 0x91 })).readReg .cstr = 0x3030 := by decide
/-- R127 -/
theorem test_cacc : (left (exec .cacc { State.reset with acc := 0x7E, din := 0x30 })).acc = 0xAE := by decide
/-- R127, the wrap -/
theorem test_cacc_wraps : (left (exec .cacc { State.reset with acc := 0xFF, din := 0x01 })).acc = 0x00 := by decide
/-- R128 -/
theorem test_csum : (left (exec .csum (loaded prefix0B))).acc = 0x91 ∧ (left (exec .csum (loaded prefix0B))).cstr = 0x3931 := by
  decide
/-- R129 -/
theorem test_cvfy_match : (left (exec .cvfy { loaded prefix0B with claim := 0x3931 })).flags.matched = true := by decide
/-- R129 -/
theorem test_cvfy_mismatch : (left (exec .cvfy { loaded prefix0B with claim := 0x3932 })).flags.matched = false ∧
    (left (exec .cvfy { loaded prefix0B with claim := 0x3932 })).fault = .none := by decide
/-- R153 -/
theorem test_encq : (left (exec .encq (operands 0x0001 0x0B []))).frame = request0B ∧
    (left (exec .encq (operands 0x0001 0x0B []))).acc = 0x91 := by decide
/-- R153, R156: ADDR = 100 -/
theorem test_encq_address : (left (exec .encq (operands 0x0064 0x0B []))).fault = .invalidBusAddress ∧
    (left (exec .encq (operands 0x0064 0x0B []))).mem = [] := by decide
/-- R154 -/
theorem test_encok : (left (exec .encok (operands 0x0001 0x00 reading))).frame = responseOk ∧
    (left (exec .encok (operands 0x0001 0x00 reading))).len = 20#13 := by decide
/-- R154, R95: an empty payload is dropped together with its separator, which leaves 12 bytes. -/
theorem test_encok_empty : (left (exec .encok (operands 0x0001 0x00 []))).len = 12#13 := by decide
/-- R155 -/
theorem test_encer : (left (exec .encer (operands 0x0001 0x03 []))).frame = responseEr ∧
    (left (exec .encer (operands 0x0001 0x03 []))).acc = 0xBB := by decide
/-- R176 -/
theorem test_decr : (left (exec .decr (loaded responseOk))).raddr = 1 ∧ (left (exec .decr (loaded responseOk))).poff = 9 ∧
    (left (exec .decr (loaded responseOk))).plen = 7 ∧
    (left (exec .decr (loaded responseOk))).flags = { valid := true, matched := true, kind := false } := by decide
/-- R176: a request frame passes stage 3 and fails stage 4 (R217) -/
theorem test_decr_request : (left (exec .decr (loaded request0B))).fault = .malformedFrame ∧
    (left (exec .decr (loaded request0B))).flags.matched = true ∧ (left (exec .decr (loaded request0B))).acc = 0x91 := by decide
/-- R182 -/
theorem test_decq : (left (exec .decq (loaded request12))).rcode = 0x12 ∧ (left (exec .decq (loaded request12))).poff = 7 ∧
    (left (exec .decq (loaded request12))).plen = 3 ∧ (left (exec .decq (loaded request12))).acc = 0x3C := by decide
/-- R172, R217: a wrong checksum field, `~01 0B 92\r` -/
theorem test_decq_mismatch : (left (exec .decq (loaded (request0B.set 8 0x32)))).fault = .checksumMismatch ∧
    (left (exec .decq (loaded (request0B.set 8 0x32)))).acc = 0x91 := by decide

/-! ### Witnesses: for each obligation with hypotheses, states and operands that meet them -/

/-- CommandWordsSelectOperations: both ends of the reserved range. -/
theorem witness_reserved_words : 0x000A ≤ (0x000A#16).toNat ∧ 0x000A ≤ (0xFFFF#16).toNat := by decide

/-- StepRunsDecodedOperation. -/
theorem witness_step_runs :
    (pending (.write 0x0000 0x0005)).input = .write 0x0000#16 0x0005#16 :: [] ∧ decode 0x0005#16 = .ok .encq := by decide

/-- IllegalCommandIsRecorded. -/
theorem witness_illegal :
    (pending (.write 0x0000 0x000A)).input = .write 0x0000#16 0x000A#16 :: [] ∧ 0x000A ≤ (0x000A#16).toNat := by decide

/-- StepAnswersUnlessUnmapped: a pending access to a mapped address, and one to an address after FBUF. -/
theorem witness_mapped_or_not : targetOf State.reset.cfg 0x10FF = some (.cell 0x10FF) ∧ targetOf State.reset.cfg 0x1100 = none ∧
    (pending (.write 0x1100 1)).input = .write 0x1100 1 :: [] := ⟨rfl, rfl, rfl⟩

/-- IdleStepChangesNothing. -/
theorem witness_idle : State.reset.input = [] := rfl

/-- RunAppliesEventsInOrder: a script of mapped accesses, and one that is not. -/
theorem witness_mapped_script : (∀ e ∈ [.write 0x0006 0x0130, .reset, .read 0x20F2], HostEvent.mapped State.reset.cfg e = true) ∧
    HostEvent.mapped State.reset.cfg (.read 0x20F3) = false := by decide

/-- RunAppliesEventsInOrder, the clauses on a run that answers; UnmappedAccessIsRefused, what comes before the access. -/
theorem witness_run : runScript [.write 0x0006 0x0130] State.reset =
    .next { State.reset with din := 0x30, reply := .hostOk } := rfl

/-- StepKeepsParameter. -/
theorem witness_step_next : step (pending (.write 0x0007 0x0100)) = .next { State.reset with len := 256#13, reply := .hostOk } :=
  rfl

/-- ResetRegisterValues: a reset after use. -/
theorem witness_reset_event : applyEvent .reset (loaded request0B) = .next { State.reset with draw := 1 } := rfl

/-- ResetEventDrawsBuffersAnew. -/
theorem witness_reset_pending : (pending .reset).input = .reset :: [] := rfl

/-- AfterResetImpliesLaunchPremises: a state after reset with bytes in its buffers. -/
theorem witness_after_reset : State.AfterReset { State.reset with mem := [(0x1000, 0x7E)] } := rfl

/-- RegisterReadReturnsValue and RegisterWriteFollowsTable: every register, and the last one by its address. -/
theorem witness_access_each (r : Reg) (v : Word) : State.reset.cfg.Wf ∧
    (pending (.read (BitVec.ofNat 16 r.number))).input = .read (BitVec.ofNat 16 r.number) :: [] ∧
    (pending (.write (BitVec.ofNat 16 r.number) v)).input = .write (BitVec.ofNat 16 r.number) v :: [] :=
  ⟨(by decide : Config.worked.Wf), rfl, rfl⟩
theorem witness_read : (pending (.read 0x000F)).input = .read (BitVec.ofNat 16 Reg.plen.number) :: [] := rfl

/-- RegisterWriteFollowsTable: LEN at FRAME_MAX and above it, ALEN at ARG_MAX and above it, and a read-only register. -/
theorem witness_write_len : (pending (.write 0x0007 256)).cfg.Wf ∧
    (pending (.write 0x0007 256)).input = .write (BitVec.ofNat 16 Reg.len.number) 256#16 :: [] ∧
    (256#16).toNat ≤ (pending (.write 0x0007 256)).cfg.frameMax := by decide
theorem witness_write_len_above :
    (pending (.write 0x0007 257)).input = .write (BitVec.ofNat 16 Reg.len.number) 257#16 :: [] ∧
    (pending (.write 0x0007 257)).cfg.frameMax < (257#16).toNat := by decide
theorem witness_write_alen :
    (pending (.write 0x0008 243)).input = .write (BitVec.ofNat 16 Reg.alen.number) 243#16 :: [] ∧
    (243#16).toNat ≤ (pending (.write 0x0008 243)).cfg.frameMax - 13 := by decide
theorem witness_write_alen_above :
    (pending (.write 0x0008 244)).input = .write (BitVec.ofNat 16 Reg.alen.number) 244#16 :: [] ∧
    (pending (.write 0x0008 244)).cfg.frameMax - 13 < (244#16).toNat := by decide
theorem witness_write_read_only :
    (pending (.write 0x0003 0x91)).input = .write (BitVec.ofNat 16 Reg.acc.number) 0x91#16 :: [] := rfl

/-- BufferReadReturnsCell: the last cell of each buffer and the first address after it. -/
theorem witness_read_fbuf : State.reset.cfg.Wf ∧
    (pending (.read 0x10FF)).input = .read (BitVec.ofNat 16 (0x1000 + 255)) :: [] ∧ 255 < State.reset.cfg.frameMax ∧
    (pending (.read 0x1100)).input = .read (BitVec.ofNat 16 (0x1000 + 256)) :: [] ∧ ¬ 256 < State.reset.cfg.frameMax := by decide
theorem witness_read_abuf :
    (pending (.read 0x20F2)).input = .read (BitVec.ofNat 16 (0x2000 + 242)) :: [] ∧ 242 < State.reset.cfg.frameMax - 13 ∧
    (pending (.read 0x20F3)).input = .read (BitVec.ofNat 16 (0x2000 + 243)) :: [] ∧ ¬ 243 < State.reset.cfg.frameMax - 13 := by
  decide

/-- BufferWriteChangesOneCell: the same boundaries. -/
theorem witness_write_fbuf : State.reset.cfg.Wf ∧
    (pending (.write 0x10FF 0x137E)).input = .write (BitVec.ofNat 16 (Buffer.fbuf.base + 255)) 0x137E#16 :: [] ∧
    255 < Buffer.fbuf.size State.reset.cfg ∧
    (pending (.write 0x1100 0x137E)).input = .write (BitVec.ofNat 16 (Buffer.fbuf.base + 256)) 0x137E#16 :: [] ∧
    Buffer.fbuf.size State.reset.cfg ≤ 256 := by decide
theorem witness_write_abuf :
    (pending (.write 0x20F2 0x0041)).input = .write (BitVec.ofNat 16 (Buffer.abuf.base + 242)) 0x0041#16 :: [] ∧
    242 < Buffer.abuf.size State.reset.cfg ∧
    (pending (.write 0x20F3 0x0041)).input = .write (BitVec.ofNat 16 (Buffer.abuf.base + 243)) 0x0041#16 :: [] ∧
    Buffer.abuf.size State.reset.cfg ≤ 243 := by decide

/-- UnmappedAccessIsRefused: the first address after each region, by a read and by a write. -/
theorem witness_unmapped : State.reset.cfg.Wf ∧
    ∀ a ∈ [0x0010, 0x0FFF, 0x1100, 0x1FFF, 0x20F3, 0xFFFF],
      0x0010 ≤ a ∧ ¬ (0x1000 ≤ a ∧ a < 0x1000 + State.reset.cfg.frameMax) ∧
      ¬ (0x2000 ≤ a ∧ a < 0x2000 + (State.reset.cfg.frameMax - 13)) := by decide
theorem witness_unmapped_pending (a : Word) :
    (pending (.read a)).input = .read a :: [] ∧ (pending (.write a 1)).input = .write a 1 :: [] := ⟨rfl, rfl⟩

/-- ParseDec2IffDec2 and ParseHex2IffFoldedHex2: both sides at an accepted value. -/
theorem witness_parse : parseDec2 [0x39, 0x39] = some 99 ∧ dec2 99 = [0x39, 0x39] ∧ parseHex2 [0x30, 0x62] = some 0x0B#8 ∧
    [0x30#8, 0x62#8].map fold = hex2 0x0B#8 := by decide

/-- ChecksumAdditiveAndOrderFree. -/
theorem witness_permutation : ([0x7E#8, 0x30#8] : Bytes).Perm [0x30#8, 0x7E#8] := List.Perm.swap ..

/-- VerifyComparesFolded, its third clause: `4G`. -/
theorem witness_claim_not_hex : ∃ b ∈ ([0x34#8, 0x47#8] : Bytes), isHex b = false := by decide

/-- VerifyAcceptsOwnChecksum: `bc` against the checksum `BC` of one byte. -/
theorem witness_lower_case :
    List.Forall₂ (fun x y : Byte => x = y ∨ (0x41 ≤ y.toNat ∧ y.toNat ≤ 0x46 ∧ x = y + 0x20#8)) [0x62#8, 0x63#8] (compute [0xBC#8]) := by
  decide

/-- OneChangedByteIsDetected. -/
theorem witness_one_change : 3 < prefix0B.length ∧ prefix0B[3]? ≠ some 0x21#8 := by decide

/-- SequencesAreBufferCells: the last index of each sequence. -/
theorem witness_indices : 9 < (loaded request0B).len.toNat ∧ 6 < (operands 1 0 reading).alen.toNat := by decide

/-- CvfyWritesMatch: the two clauses on CLAIM. -/
theorem witness_cvfy : ({ State.reset with claim := 0x3030 } : State).len = 0#13 ∧
    ({ State.reset with claim := 0x3030 } : State).claim = 0x3030#16 ∧ State.reset.claim = 0x0000#16 := by decide

/-- StreamingEqualsBlock, its second clause. -/
theorem witness_streaming : State.reset.cfg.Wf ∧ request0B.length ≤ State.reset.cfg.frameMax := by decide

/-- EncqStoresRequestFrame, EncokStoresSuccessFrame, EncerStoresErrorFrame: the last address in range and the first beyond it, a
byte of the frame, and the addresses on either side of it. -/
theorem witness_encode : (operands 99 0x0B []).addr.toNat ≤ 99 ∧ 99 < (operands 100 0x0B []).addr.toNat ∧
    (frameReq 99 0x0B [])[9]? = some 0x0D#8 ∧ (0x0FFF < 0x1000 ∧ 0x1000 + (frameReq 99 0x0B []).length ≤ 0x100A) ∧
    (frameOk 99 [])[11]? = some 0x0D#8 ∧ (frameEr 99 0x03)[11]? = some 0x0D#8 := by decide

/-- InvalidBusAddressLeavesStateAlone. -/
theorem witness_invalid_address :
    99 < ({ pending (.write 0x0000 0x0007) with addr := 100 } : State).addr.toNat ∧
    ({ pending (.write 0x0000 0x0007) with addr := 100 } : State).input = .write 0x0000#16 (encode .encok) :: [] := by decide

/-- EncodedFramesFitBuffer: the longest operand, and the smallest buffer. -/
theorem witness_fit : ({ State.reset with alen := 243#13 } : State).cfg.Wf ∧
    ({ State.reset with alen := 243#13 } : State).alen.toNat ≤ State.reset.cfg.frameMax - 13 ∧
    (State.resetWith { frameMax := 13 } 0).cfg.Wf ∧ (State.resetWith { frameMax := 13 } 0).alen.toNat ≤ 13 - 13 := by decide

/-- FramesFollowPositionTables. -/
theorem witness_positions : 99 ≤ 99 ∧ reading ≠ [] := by decide

/-- EncoderOutputShape: each of the three encoders, and a payload without the terminator. -/
theorem witness_shape : encReq 1 0x0B [] = .ok request0B ∧ encOk 1 reading = .ok responseOk ∧ encEr 1 0x03 = .ok responseEr ∧
    0x0D#8 ∉ reading := ⟨rfl, rfl, rfl, by decide⟩

/-- DecoderStagesInOrder and FaultingDecodeState, stage 1: the empty sequence, and one whose last byte is another. -/
theorem witness_stage1 : (loaded []).frame = [] ∧ (¬ ∃ body : Bytes, [] = body ++ [0x0D#8] ∧ 0x0D#8 ∉ body) ∧
    ¬ ∃ body : Bytes, [0x0D#8, 0x41#8] = body ++ [0x0D#8] ∧ 0x0D#8 ∉ body := by
  refine ⟨rfl, ?_, ?_⟩
  · rintro ⟨body, h, -⟩
    simp at h
  · rintro ⟨body, h, -⟩
    simpa using congrArg List.getLast? h

/-- DecoderStagesInOrder and FaultingDecodeState, stage 2: `A\r`. -/
theorem witness_stage2 : (loaded [0x41, 0x0D]).frame = [0x41#8] ++ [0x0D#8] ∧ 0x0D#8 ∉ [0x41#8] ∧ 0x20#8 ∉ [0x41#8] := by decide

/-- DecoderStagesInOrder and FaultingDecodeState, stage 3 fails: `A 00\r`. -/
theorem witness_stage3 : (loaded [0x41, 0x20, 0x30, 0x30, 0x0D]).frame = [0x41#8] ++ 0x20#8 :: [0x30#8, 0x30#8] ++ [0x0D#8] ∧
    0x0D#8 ∉ [0x41#8] ∧ 0x0D#8 ∉ [0x30#8, 0x30#8] ∧ 0x20#8 ∉ [0x30#8, 0x30#8] ∧
    verify ([0x41#8] ++ [0x20#8]) [0x30#8, 0x30#8] = false := by decide

/-- DecoderStagesInOrder and FaultingDecodeState, stage 3 passes and both field stages fail: `A 61\r`. -/
theorem witness_stage4 : (loaded [0x41, 0x20, 0x36, 0x31, 0x0D]).frame = [0x41#8] ++ 0x20#8 :: [0x36#8, 0x31#8] ++ [0x0D#8] ∧
    verify ([0x41#8] ++ [0x20#8]) [0x36#8, 0x31#8] = true ∧ respFields [0x41#8] = .error .malformedFrame ∧
    reqFields [0x41#8] = .error .malformedFrame := ⟨by decide, by decide, rfl, rfl⟩

/-- AcceptedResponsesByPosition, DecrDeliversOutcome: an accepted frame of each outcome, and a byte of the payload. -/
theorem witness_responses : decResp (loaded responseOk).frame = .ok (.ok 1 reading) ∧
    decResp (loaded responseEr).frame = .ok (.deviceError 1 0x30 0x33) ∧ reading[6]? = some 0x37#8 := ⟨rfl, rfl, rfl⟩

/-- AcceptedRequestsByPosition, DecqDeliversRequest: an accepted frame without and with an argument, and a byte of the argument. -/
theorem witness_requests : decReq (loaded request0B).frame = .ok { busAddress := 1, code := 0x0B, argument := [] } ∧
    decReq (loaded request12).frame = .ok { busAddress := 1, code := 0x12, argument := [0x35, 0x35, 0x30] } ∧
    ([0x35#8, 0x35#8, 0x30#8] : Bytes)[2]? = some 0x30#8 := ⟨rfl, rfl, rfl⟩

/-- EncodeDecodeRoundTrip, TerminatorInArgumentIsRejected. -/
theorem witness_arguments : 99 ≤ 99 ∧ 0x0D#8 ∉ reading ∧ 0x0D#8 ∈ ([0x41#8, 0x0D#8] : Bytes) := by decide

/-- OneChangedByteNeverDecodesOtherwise: `BB` to `bB` in the checksum field is accepted; a changed prefix byte. -/
theorem witness_changed_byte : 9 < responseEr.length ∧ responseEr[9]? ≠ some 0x62#8 ∧
    decResp responseEr = .ok (.deviceError 1 0x30 0x33) ∧ decResp (responseEr.set 9 0x62) = .ok (.deviceError 1 0x30 0x33) ∧
    1 < responseEr.length - 3 ∧ responseEr[1]? ≠ some 0x32#8 ∧ responseEr[1]? ≠ some 0x20#8 :=
  ⟨by decide, by decide, rfl, rfl, by decide, by decide, by decide⟩
theorem witness_changed_byte_request : 12 < request12.length ∧ request12[12]? ≠ some 0x63#8 ∧
    decReq request12 = .ok { busAddress := 1, code := 0x12, argument := [0x35, 0x35, 0x30] } ∧
    decReq (request12.set 12 0x63) = .ok { busAddress := 1, code := 0x12, argument := [0x35, 0x35, 0x30] } ∧
    0 < request12.length - 3 ∧ request12[0]? ≠ some 0x7F#8 ∧ request12[0]? ≠ some 0x20#8 :=
  ⟨by decide, by decide, rfl, rfl, by decide, by decide, by decide⟩

/-- The invariant of a state with operands ready. -/
theorem operands_inv : (operands 99 0x0B reading).Inv where
  cfgWf := by decide
  memWf := by decide
  memMapped := by decide
  lenLe := by decide
  alenLe := by decide
  raddrLe := by decide
  clearWhenInvalid := by decide
  errorCode := by decide
  payloadInside := by decide

/-- EncqThenDecqRecoversRequest, EncodedResponsesDecodeBack. -/
theorem witness_machine_round_trip : (operands 99 0x0B reading).Inv ∧ (operands 99 0x0B reading).addr.toNat ≤ 99 ∧
    0x0D#8 ∉ (operands 99 0x0B reading).operand := ⟨operands_inv, by decide, by decide⟩

/-- A state that satisfies the invariant and is about to decode a response. -/
def decoding : State := { loaded responseOk with input := [.write 0x0000 0x0006] }

theorem decoding_inv : decoding.Inv where
  cfgWf := by decide
  memWf := by decide
  memMapped := by decide
  lenLe := by decide
  alenLe := by decide
  raddrLe := by decide
  clearWhenInvalid := by decide
  errorCode := by decide
  payloadInside := by decide

/-- StepKeepsInvariant and OnlyDecodersSetValid: a step that delivers an outcome. -/
theorem witness_invariant_step : decoding.Inv ∧ step decoding = .next (left (step decoding)) ∧ decoding.flags.valid = false ∧
    (left (step decoding)).flags.valid = true := ⟨decoding_inv, rfl, rfl, by decide⟩

/-- ResetHasInvariant: the two ends of the parameter's range. -/
theorem witness_parameter_range : ({ frameMax := 13 } : Config).Wf ∧ ({ frameMax := 4096 } : Config).Wf := by decide

/-- OperationsKeepOperands: an encoder, an operation that is none, and an address of ABUF. -/
theorem witness_operation_next : exec .encq (operands 99 0x0B reading) = .next (left (exec .encq (operands 99 0x0B reading))) ∧
    exec .csum (operands 99 0x0B reading) = .next (left (exec .csum (operands 99 0x0B reading))) ∧ Instr.csum ≠ .encq ∧
    Instr.csum ≠ .encok ∧ Instr.csum ≠ .encer ∧ (operands 99 0x0B reading).Inv ∧ 0x2000 ≤ 0x20F2 :=
  ⟨rfl, rfl, by decide, by decide, by decide, operands_inv, by decide⟩

/-- ResultsIgnoreEarlierResults: two states that differ in every earlier result. -/
theorem witness_earlier_results : Instr.decr ≠ .cacc ∧
    let s : State := loaded responseOk
    let s' : State := { s with
      fault := .illegalCommand, flags := { valid := true, matched := true, kind := true }, acc := 0x91, raddr := 99
      rcode := 0x0B, rerr := 0x3033, poff := 7, plen := 3 }
    s' = { s with
      fault := s'.fault, flags := s'.flags, acc := s'.acc, raddr := s'.raddr, rcode := s'.rcode, rerr := s'.rerr
      poff := s'.poff, plen := s'.plen } ∧ s' ≠ s := by decide

/-- OperationsReadCurrentSequencesOnly: two states that differ in a cell beyond LEN. -/
theorem witness_other_cells :
    let s : State := loaded request0B
    let s' : State := { s with mem := s.mem.write 0x100A 0x41 }
    s' = { s with mem := s'.mem, draw := s'.draw } ∧ s' ≠ s ∧
    (∀ k, k < s.len.toNat → s'.cell (0x1000 + k) = s.cell (0x1000 + k)) ∧
    (∀ k, k < s.alen.toNat → s'.cell (0x2000 + k) = s.cell (0x2000 + k)) := by decide

/-- FaultChangesOnlyByCommand: a command that faults, and a reset after a fault. -/
theorem witness_fault_changes : step (pending (.write 0x0000 0x0006)) = .next (left (step (pending (.write 0x0000 0x0006)))) ∧
    (left (step (pending (.write 0x0000 0x0006)))).fault ≠ (pending (.write 0x0000 0x0006)).fault ∧
    (left (step { pending .reset with fault := .malformedFrame })).fault ≠ .malformedFrame := ⟨rfl, by decide, by decide⟩

/-- A state about to write, encode or reset over a byte held in FBUF[0]. -/
def holding (b : Byte) (e : HostEvent) : State := { State.reset with mem := [(0x1000, b)], input := [e] }

theorem holding_inv (b : Byte) (e : HostEvent) : (holding b e).Inv where
  cfgWf := (by decide : Config.worked.Wf)
  memWf := List.pairwise_singleton ..
  memMapped := by simp [holding, State.reset, State.resetWith, Config.worked]
  lenLe := Nat.zero_le _
  alenLe := Nat.zero_le _
  raddrLe := Nat.zero_le _
  clearWhenInvalid := fun _ => ⟨rfl, rfl, rfl, rfl, rfl, rfl⟩
  errorCode := ⟨fun _ => rfl, fun h => Bool.noConfusion h⟩
  payloadInside := Nat.zero_le _

/-- CellKeepsByteUntilWritten: FBUF[0] changed by a host write, by an encoder, and by a reset whose draw differs from what was
written. -/
theorem witness_cell_written : (holding 0x00 (.write 0x1000 0x7E)).Inv ∧
    step (holding 0x00 (.write 0x1000 0x7E)) = .next (left (step (holding 0x00 (.write 0x1000 0x7E)))) ∧
    (left (step (holding 0x00 (.write 0x1000 0x7E)))).cell 0x1000 ≠ (holding 0x00 (.write 0x1000 0x7E)).cell 0x1000 :=
  ⟨holding_inv .., rfl, by decide⟩
theorem witness_cell_encoded :
    (left (step (holding 0x00 (.write 0x0000 0x0005)))).cell 0x1000 ≠ (holding 0x00 (.write 0x0000 0x0005)).cell 0x1000 := by decide
theorem witness_cell_reset (b : Byte) (h : Config.unwrittenByte 1 0x1000 ≠ b) :
    (left (step (holding b .reset))).cell 0x1000 ≠ (holding b .reset).cell 0x1000 := h

end Sys2Proof.Tests
end

/-! ## The registers after reset (R44) and the view CSTR (R31) -/

namespace Sys2Proof.Machine

/-! ### Two characters in one register (R63) -/

@[simp] theorem char0_pack2 (c0 c1 : Byte) : char0 (pack2 c0 c1) = c0 :=
  BitVec.extractLsb'_append_eq_left

@[simp] theorem char1_pack2 (c0 c1 : Byte) : char1 (pack2 c0 c1) = c1 :=
  BitVec.extractLsb'_append_eq_right

/-! ### CSTR: its two characters are computed from ACC -/

@[simp] theorem State.readReg_cstr (s : State) : s.readReg .cstr = s.cstr := rfl

theorem State.cstr_chars (s : State) : [char0 s.cstr, char1 s.cstr] = hex2 s.acc := by
  simp [State.cstr, hex2]

theorem State.AccClear.cstr {s : State} (h : s.AccClear) : s.cstr = 0x3030#16 := by
  rw [State.AccClear] at h
  rw [State.cstr, h]
  rfl

/-! ### The states a reset leaves -/

theorem State.reset_afterReset : State.reset.AfterReset := rfl

theorem State.applyReset_afterReset (s : State) : s.applyReset.AfterReset := rfl

theorem applyEvent_reset_afterReset {s t : State} (h : applyEvent .reset s = .next t) : t.AfterReset := by
  cases h
  exact s.applyReset_afterReset

/-- Registers do not read the buffers, the pending input or the reply, the fields `AfterReset` leaves open. -/
theorem State.AfterReset.readReg {s : State} (h : s.AfterReset) (r : Reg) :
    s.readReg r = if r = .cstr then 0x3030#16 else 0#16 := by
  rw [h]
  cases r with
  | cstr => exact State.AccClear.cstr rfl
  | _ => rfl

/-- Settles O9: the reset state and the state after a reset event both satisfy `AfterReset`, which fixes every register. -/
theorem resetRegisterValues : Obligations.ResetRegisterValues := by
  intro r
  constructor
  · exact State.reset_afterReset.readReg r
  · intro s t ht
    exact (applyEvent_reset_afterReset ht).readReg r

/-- Settles O18: CSTR packs the two characters of `hex2(ACC)`, and ACC is zero after reset. -/
theorem cstrIsViewOfAcc : Obligations.CstrIsViewOfAcc := by
  constructor
  · intro s
    rw [s.readReg_cstr]
    exact s.cstr_chars
  · exact State.reset_afterReset.readReg .cstr

end Sys2Proof.Machine

/-! ## The command word (R100 to R102) -/

namespace Sys2Proof

/-- R100: the decoder reads every operation back from its own command word. -/
@[simp] theorem decode_encode (i : Instr) : decode (encode i) = .ok i := by
  cases i <;> rfl

/-- R101: the numbers of the operations end at 9; a value above them falls through to the decoder's last branch. -/
theorem decode_eq_error_of_ten_le {v : Word} (hv : 0x000A ≤ v.toNat) : decode v = .error (.illegalCommand v) := by
  unfold decode
  split
  case h_11 => rfl
  all_goals omega

/-- Settles O1: the ten values are the command words of the ten operations, and the reserved ones are those from ten on. -/
theorem commandWordsSelectOperations : Obligations.CommandWordsSelectOperations :=
  ⟨decode_encode .nop, decode_encode .cclr, decode_encode .cacc, decode_encode .csum, decode_encode .cvfy,
    decode_encode .encq, decode_encode .decr, decode_encode .encok, decode_encode .encer, decode_encode .decq,
    fun _ hv => decode_eq_error_of_ten_le hv⟩

end Sys2Proof

/-! ## The checksum engine (R120 to R130) -/

namespace Sys2Proof.Machine

/-! ### The checksum: the sum of the byte values modulo 256 -/

theorem csum_toNat (s : Bytes) : (csum s).toNat = (s.map BitVec.toNat).sum % 256 := by
  induction s with
  | nil => rfl
  | cons b s ih =>
    rw [csum, BitVec.toNat_add, ih, List.map_cons, List.sum_cons]
    omega

/-- The sum of the byte values does not depend on their order, and it fixes the checksum. -/
theorem csum_perm {s t : Bytes} (h : s.Perm t) : csum s = csum t := by
  apply BitVec.eq_of_toNat_eq
  rw [csum_toNat, csum_toNat, (h.map BitVec.toNat).sum_eq]

/-- Settles O21: a byte at the end is the right summand of `csum_append`; the sum modulo 256 is `csum_toNat`. -/
theorem checksumIsSumModulo256 : Obligations.ChecksumIsSumModulo256 := by
  refine ⟨rfl, fun s b => ?_, csum_toNat⟩
  rw [csum_append]
  simp [csum]

/-- Settles O22, by `csum_append` and `csum_perm`. -/
theorem checksumAdditiveAndOrderFree : Obligations.ChecksumAdditiveAndOrderFree := by
  constructor
  · intro s t
    rw [csum_append, BitVec.toNat_add]
  · intro s t h
    exact csum_perm h

/-! ### Hexadecimal digits and their upper-case form (R89, R91, R92) -/

theorem hexDigit_toNat {d : Nat} (hd : d < 16) :
    (hexDigit d).toNat = if d < 10 then 0x30 + d else 0x37 + d := by
  rw [hexDigit]
  split <;> rw [BitVec.toNat_ofNat] <;> omega

theorem fold_toNat (b : Byte) :
    (fold b).toNat = if 0x61 ≤ b.toNat ∧ b.toNat ≤ 0x66 then b.toNat - 0x20 else b.toNat := by
  rw [fold]
  split
  · bv_omega
  · rfl

theorem isHex_iff (b : Byte) : isHex b = true ↔
    (0x30 ≤ b.toNat ∧ b.toNat ≤ 0x39) ∨ (0x41 ≤ b.toNat ∧ b.toNat ≤ 0x46) ∨ (0x61 ≤ b.toNat ∧ b.toNat ≤ 0x66) := by
  rw [isHex, decide_eq_true_iff]

theorem hexVal_lt {b : Byte} (h : isHex b = true) : hexVal b < 16 := by
  rw [isHex_iff] at h
  rw [hexVal]
  split_ifs <;> omega

/-- The upper-case form of a byte is the digit of value `d` exactly when the byte is a digit, of either case, of value `d`. -/
theorem fold_eq_hexDigit_iff (b : Byte) {d : Nat} (hd : d < 16) :
    fold b = hexDigit d ↔ isHex b = true ∧ hexVal b = d := by
  rw [← BitVec.toNat_inj, fold_toNat, hexDigit_toNat hd, isHex_iff, hexVal]
  split_ifs <;> omega

theorem fold_hexDigit {d : Nat} (hd : d < 16) : fold (hexDigit d) = hexDigit d := by
  apply BitVec.eq_of_toNat_eq
  rw [fold_toNat, hexDigit_toNat hd]
  split_ifs <;> omega

/-- Lowering the case of a letter `A` to `F` is not seen by `fold`. -/
theorem fold_add_case_bit {b : Byte} (h : 0x41 ≤ b.toNat ∧ b.toNat ≤ 0x46) : fold (b + 0x20#8) = fold b := by
  have hb : (b + 0x20#8).toNat = b.toNat + 0x20 := by bv_omega
  apply BitVec.eq_of_toNat_eq
  rw [fold_toNat, fold_toNat, hb]
  split_ifs <;> omega

/-- The two nibbles of a byte, by value. -/
theorem ofNat_nibbles_eq_iff {h l : Nat} (hh : h < 16) (hl : l < 16) (v : Byte) :
    BitVec.ofNat 8 (16 * h + l) = v ↔ h = v.toNat / 16 ∧ l = v.toNat % 16 := by
  rw [← BitVec.toNat_inj, BitVec.toNat_ofNat, Nat.mod_eq_of_lt (by omega)]
  omega

theorem map_fold_hex2 (v : Byte) : (hex2 v).map fold = hex2 v := by
  have hv := v.isLt
  rw [hex2, List.map_cons, List.map_singleton, fold_hexDigit (by omega), fold_hexDigit (by omega)]

theorem map_fold_pair_eq_hex2_iff (c0 c1 v : Byte) :
    [c0, c1].map fold = hex2 v ↔ fold c0 = hexDigit (v.toNat / 16) ∧ fold c1 = hexDigit (v.toNat % 16) := by
  simp [hex2]

/-- A sequence whose upper-case form is two digits has two bytes. -/
theorem length_of_map_fold_eq_hex2 {c : Bytes} {v : Byte} (h : c.map fold = hex2 v) : c.length = 2 := by
  simpa [hex2] using congrArg List.length h

/-- R91, R92: `parse_hex2` accepts exactly what `fold` maps to the two upper-case digits of the value. -/
theorem parseHex2_eq_some_iff (c : Bytes) (v : Byte) : parseHex2 c = some v ↔ c.map fold = hex2 v := by
  have hv := v.isLt
  unfold parseHex2
  split
  next c0 c1 =>
    rw [map_fold_pair_eq_hex2_iff, fold_eq_hexDigit_iff c0 (by omega), fold_eq_hexDigit_iff c1 (by omega)]
    split
    next hd =>
      obtain ⟨h0, h1⟩ := Bool.and_eq_true_iff.1 hd
      simp [h0, h1, ofNat_nibbles_eq_iff (hexVal_lt h0) (hexVal_lt h1)]
    next hd =>
      simp only [reduceCtorEq, false_iff]
      rintro ⟨⟨h0, -⟩, h1, -⟩
      exact hd (by rw [h0, h1]; rfl)
  next hc =>
    simp only [reduceCtorEq, false_iff]
    intro h
    obtain ⟨c0, c1, rfl⟩ := List.length_eq_two.1 (length_of_map_fold_eq_hex2 h)
    exact hc c0 c1 rfl

theorem isHex_of_parseHex2 {c : Bytes} {v : Byte} (h : parseHex2 c = some v) : ∀ b ∈ c, isHex b = true := by
  unfold parseHex2 at h
  split at h
  · split at h
    next hd => simpa using hd
    · cases h
  · cases h

/-! ### verify: the claim's upper-case form is the recomputed checksum -/

theorem verify_eq_true_iff (s c : Bytes) : verify s c = true ↔ c.map fold = compute s := by
  rw [compute]
  constructor
  · intro h
    obtain ⟨c0, c1, rfl⟩ := List.length_eq_two.1 (verify_length h)
    rw [map_fold_pair_eq_hex2_iff]
    simpa [verify] using h
  · intro h
    obtain ⟨c0, c1, rfl⟩ := List.length_eq_two.1 (length_of_map_fold_eq_hex2 h)
    rw [map_fold_pair_eq_hex2_iff] at h
    simpa [verify] using h

theorem verify_eq_true_iff_parseHex2 (s c : Bytes) : verify s c = true ↔ parseHex2 c = some (csum s) := by
  rw [verify_eq_true_iff, compute, parseHex2_eq_some_iff]

/-- A claim that holds a byte that is no hexadecimal digit cannot be parsed, so it is unequal. -/
theorem verify_eq_false_of_not_isHex {s c : Bytes} (h : ∃ b ∈ c, isHex b = false) : verify s c = false := by
  obtain ⟨b, hb, hx⟩ := h
  rw [← Bool.not_eq_true, verify_eq_true_iff_parseHex2]
  intro hp
  rw [isHex_of_parseHex2 hp b hb] at hx
  cases hx

/-- A claim that differs from the digits of the checksum in the case of letters alone has the same upper-case form. -/
theorem map_fold_eq_of_lower_case {c d : Bytes}
    (h : List.Forall₂ (fun x y => x = y ∨ (0x41 ≤ y.toNat ∧ y.toNat ≤ 0x46 ∧ x = y + 0x20#8)) c d) :
    c.map fold = d.map fold := by
  induction h with
  | nil => rfl
  | @cons x y _ _ hxy _ ih =>
    have hfold : fold x = fold y := by
      rcases hxy with rfl | ⟨hlo, hhi, rfl⟩
      · rfl
      · exact fold_add_case_bit ⟨hlo, hhi⟩
    rw [List.map_cons, List.map_cons, hfold, ih]

/-- Settles O23: the comparison of digits, the comparison of values, and the claims that parse to no value. -/
theorem verifyComparesFolded : Obligations.VerifyComparesFolded := by
  intro s c
  refine ⟨?_, verify_eq_true_iff_parseHex2 s c, verify_eq_false_of_not_isHex⟩
  constructor
  · intro h
    exact ⟨verify_length h, (verify_eq_true_iff s c).1 h⟩
  · rintro ⟨-, h⟩
    exact (verify_eq_true_iff s c).2 h

/-- Settles O24: the digits are upper case, so `fold` keeps them and takes a lower-case form of them back to them. -/
theorem verifyAcceptsOwnChecksum : Obligations.VerifyAcceptsOwnChecksum := by
  intro s
  have hown : (compute s).map fold = compute s := map_fold_hex2 (csum s)
  constructor
  · exact (verify_eq_true_iff s _).2 hown
  · intro c hc
    exact (verify_eq_true_iff s c).2 ((map_fold_eq_of_lower_case hc).trans hown)

/-! ### The checksum operations: what each writes -/

theorem exec_cclr (s : State) : exec .cclr s = .next { s with acc := 0#8, fault := .none } := rfl

theorem exec_cacc (s : State) : exec .cacc s = .next { s with acc := s.acc + s.din, fault := .none } := rfl

theorem exec_csum (s : State) : exec .csum s = .next { s with acc := csum s.frame, fault := .none } := rfl

theorem exec_cvfy (s : State) : exec .cvfy s = .next { s with
    acc := csum s.frame
    flags := { s.flags with matched := verify s.frame [char0 s.claim, char1 s.claim] }
    fault := .none } := rfl

theorem State.frame_eq_nil {s : State} (h : s.len = 0#13) : s.frame = [] := by
  rw [State.frame, h]
  rfl

/-- Settles O28: `exec_cclr`, and CSTR is a view of a clear ACC. -/
theorem cclrClearsAccumulator : Obligations.CclrClearsAccumulator :=
  fun s => ⟨_, exec_cclr s, rfl, State.AccClear.cstr rfl⟩

/-- Settles O29: `exec_cacc`, with the sum of two bytes read as a number. -/
theorem caccAddsDin : Obligations.CaccAddsDin :=
  fun s => ⟨_, exec_cacc s, rfl, BitVec.toNat_add s.acc s.din⟩

/-- Settles O30: `exec_csum`, and CSTR shows the digits of the ACC it leaves. -/
theorem csumReplacesAccumulator : Obligations.CsumReplacesAccumulator :=
  fun s => ⟨_, exec_csum s, rfl, State.cstr_chars _⟩

/-- Settles O31: `exec_cvfy`; the two corner cases are claims on the digits `00` and on bytes that are no digits. -/
theorem cvfyWritesMatch : Obligations.CvfyWritesMatch := by
  intro s
  refine ⟨verify s.frame [char0 s.claim, char1 s.claim], exec_cvfy s, rfl, ?_, ?_⟩
  · intro hlen hclaim
    rw [State.frame_eq_nil hlen, hclaim]
    decide
  · intro hclaim
    rw [hclaim]
    exact verify_eq_false_of_not_isHex ⟨char0 0x0000#16, List.mem_cons_self, by decide⟩

/-! ### Runs of host scripts: one rule per line that CSTREAM and LDF write (R104, R105, R251) -/

theorem runScript_cons_of_next {e : HostEvent} {s t : State} (h : applyEvent e s = .next t) (es : List HostEvent) :
    runScript (e :: es) s = runScript es t := by
  rw [runScript, h]

/-- A script runs on from the state in which its first part ends. -/
theorem runScript_append_of_next {es : List HostEvent} {s t : State} (h : runScript es s = .next t)
    (fs : List HostEvent) : runScript (es ++ fs) s = runScript fs t := by
  induction es generalizing s with
  | nil =>
    cases h
    rfl
  | cons e es ih =>
    rw [runScript] at h
    rw [List.cons_append, runScript]
    split at h
    next hs => simpa only [hs] using ih h
    · cases h
    · cases h

/-- `OP`: the CMD write runs the operation of its own number. -/
theorem applyEvent_op (i : Instr) (s : State) :
    applyEvent (Line.op i).encode s = exec i { s with cmd := encode i, reply := .hostOk } := by
  change runCommand (encode i) _ = _
  rw [runCommand, decode_encode]
  rfl

theorem applyEvent_wr_din (v : Word) (s : State) :
    applyEvent (Line.wr .din v).encode s = .next { s with din := v.setWidth 8, reply := .hostOk } := rfl

theorem applyEvent_wr_len (v : Word) (s : State) (hv : v.toNat ≤ s.cfg.frameMax) :
    applyEvent (Line.wr .len v).encode s = .next { s with len := v.setWidth 13, reply := .hostOk } := by
  change Host.Outcome.next { s.writeReg v .len with reply := .hostOk } = _
  rw [State.writeReg, if_pos hv]

/-- An FBUF cell of the capacity has an address of 16 bits, which names it (R61). -/
theorem targetOf_fbuf_address {c : Config} (hc : c.Wf) {i : Nat} (hi : i < c.frameMax) :
    targetOf c (Buffer.fbuf.address i) = some (.cell (Config.fbufBase + i)) := by
  obtain ⟨-, hmax⟩ := hc
  have ha : (Buffer.fbuf.address i).toNat = Config.fbufBase + i := by
    rw [Buffer.address, BitVec.toNat_ofNat]
    exact Nat.mod_eq_of_lt (by simp only [Buffer.base, Config.fbufBase]; omega)
  rw [targetOf, ha, if_neg (by simp only [Config.fbufBase]; omega), if_pos (by omega)]

theorem applyEvent_wb_fbuf {s : State} (hc : s.cfg.Wf) {i : Nat} (hi : i < s.cfg.frameMax) (b : Byte) :
    applyEvent (Line.wb .fbuf i (b.setWidth 16)).encode s =
      .next { s with mem := s.mem.write (Config.fbufBase + i) b, reply := .hostOk } := by
  change hostWrite _ _ s = _
  simp [hostWrite, targetOf_fbuf_address hc hi]

/-- Streaming adds the checksum of the bytes to ACC, whatever it was and however many they are. -/
theorem runScript_streamLines (bytes : Bytes) (s : State) :
    ∃ t, runScript ((streamLines bytes).map Line.encode) s = .next t ∧ t.acc = s.acc + csum bytes := by
  induction bytes generalizing s with
  | nil => exact ⟨s, rfl, by simp [csum]⟩
  | cons b bytes ih =>
    rw [streamLines, List.map_cons, List.map_cons, runScript_cons_of_next (applyEvent_wr_din _ s),
      runScript_cons_of_next ((applyEvent_op .cacc _).trans (exec_cacc _))]
    obtain ⟨t, hrun, hacc⟩ := ih _
    exact ⟨t, hrun, by simp [hacc, csum, BitVec.add_assoc]⟩

/-- CSTREAM starts from a clear accumulator. -/
theorem runScript_cstream (bytes : Bytes) (s : State) :
    ∃ t, runScript (PseudoLine.cstream bytes).encode s = .next t ∧ t.acc = csum bytes := by
  rw [PseudoLine.encode, PseudoLine.expand, List.map_cons,
    runScript_cons_of_next ((applyEvent_op .cclr s).trans (exec_cclr _))]
  obtain ⟨t, hrun, hacc⟩ := runScript_streamLines bytes _
  exact ⟨t, hrun, by simp [hacc]⟩

/-- The `WB` lines of a sequence that fits in FBUF from cell `i` on list its bytes there and change nothing else of the block. -/
theorem runScript_bufferWrites_fbuf (bytes : Bytes) (i : Nat) (s : State) (hc : s.cfg.Wf)
    (hfit : i + bytes.length ≤ s.cfg.frameMax) :
    ∃ r, runScript ((bufferWrites .fbuf i bytes).map Line.encode) s =
      .next { s with mem := s.mem.writeSeq (Config.fbufBase + i) bytes, reply := r } := by
  induction bytes generalizing i s with
  | nil => exact ⟨s.reply, rfl⟩
  | cons b bytes ih =>
    rw [List.length_cons] at hfit
    rw [bufferWrites, List.map_cons, runScript_cons_of_next (applyEvent_wb_fbuf hc (by omega) b)]
    exact ih (i + 1) _ hc (show i + 1 + bytes.length ≤ s.cfg.frameMax by omega)

/-- LDF leaves what storing the sequence as a frame leaves, but for the reply. -/
theorem runScript_ldf (bytes : Bytes) (s : State) (hc : s.cfg.Wf) (hfit : bytes.length ≤ s.cfg.frameMax) :
    ∃ r, runScript (PseudoLine.ldf bytes).encode s = .next { s.storeFrame bytes with reply := r } := by
  have hle : (BitVec.ofNat 16 bytes.length).toNat ≤ s.cfg.frameMax := (Nat.mod_le _ _).trans hfit
  obtain ⟨r, hrun⟩ := runScript_bufferWrites_fbuf bytes 0 s hc (by omega)
  refine ⟨.hostOk, ?_⟩
  rw [PseudoLine.encode, PseudoLine.expand, List.map_append, runScript_append_of_next hrun, List.map_singleton,
    runScript_cons_of_next (applyEvent_wr_len _ _ ?_), BitVec.setWidth_ofNat_of_le (by decide)]
  · rfl
  · exact hle

/-- A frame that LEN can count is read back as the current byte sequence. -/
theorem State.frame_storeFrame (bytes : Bytes) (s : State) (h : bytes.length < 2 ^ 13) :
    (s.storeFrame bytes).frame = bytes := by
  rw [State.frame, State.storeFrame_len, BitVec.toNat_ofNat, Nat.mod_eq_of_lt h]
  exact State.cells_eq_of_get _ _ _ fun i b hb => State.storeFrame_cell_get bytes s i b hb

/-- The current byte sequence depends on the memory, the draw and LEN alone. -/
theorem State.frame_congr {s t : State} (hm : t.mem = s.mem) (hd : t.draw = s.draw) (hl : t.len = s.len) :
    t.frame = s.frame := by
  rw [State.frame, State.frame, hl, State.cells_congr hm hd]

/-- Settles O32: CSTREAM accumulates the checksum byte by byte, and LDF makes the sequence the one that CSUM sums. -/
theorem streamingEqualsBlock : Obligations.StreamingEqualsBlock := by
  intro s bytes
  refine ⟨runScript_cstream bytes s, fun hc hfit => ?_⟩
  obtain ⟨r, hrun⟩ := runScript_ldf bytes s hc hfit
  rw [runScript_append_of_next hrun,
    runScript_cons_of_next ((applyEvent_op .csum _).trans (exec_csum _))]
  have hloaded : (s.storeFrame bytes).frame = bytes := s.frame_storeFrame bytes (by have := hc.2; omega)
  refine ⟨_, rfl, congrArg csum (Eq.trans ?_ hloaded)⟩
  exact State.frame_congr rfl rfl rfl

end Sys2Proof.Machine

/-! ## The frame encoders (R80 to R89, R150 to R159) -/

namespace Sys2Proof.Machine

/-! ### Lengths of the fields and of the frames (R81 to R83, R157) -/

@[simp] theorem dec2_length (a : Nat) : (dec2 a).length = 2 := rfl

@[simp] theorem hex2_length (v : Byte) : (hex2 v).length = 2 := rfl

theorem optionalField_length (g : Bytes) :
    (optionalField g).length = if g.length = 0 then 0 else g.length + 1 := by
  cases g <;> simp [optionalField]

@[simp] theorem closeFrame_length (pre : Bytes) : (closeFrame pre).length = pre.length + 3 := by
  simp [closeFrame]

theorem frameReq_length (a : Nat) (c : Byte) (g : Bytes) :
    (frameReq a c g).length = if g.length = 0 then 10 else 11 + g.length := by
  rw [frameReq, closeFrame_length, prefixReq]
  simp only [List.length_append, List.length_singleton, dec2_length, hex2_length, optionalField_length]
  split_ifs <;> omega

theorem frameOk_length (a : Nat) (p : Bytes) :
    (frameOk a p).length = if p.length = 0 then 12 else 13 + p.length := by
  rw [frameOk, closeFrame_length, prefixOk]
  simp only [List.length_append, dec2_length, tokenOk, statusZero, List.length_cons, List.length_nil,
    optionalField_length]
  split_ifs <;> omega

theorem frameEr_length (a : Nat) (e : Byte) : (frameEr a e).length = 12 := rfl

@[simp] theorem State.operand_length (s : State) : s.operand.length = s.alen.toNat :=
  s.cells_length _ _

/-- Settles O37: the lengths depend on the operand through ALEN alone, and ARG_MAX leaves room for the 13 bytes around it. -/
theorem encodedFramesFitBuffer : Obligations.EncodedFramesFitBuffer := by
  rintro s a c ⟨hmin, -⟩ hfit
  have hreq := frameReq_length a c s.operand
  have hok := frameOk_length a s.operand
  have her := frameEr_length a c
  rw [State.operand_length] at hreq hok
  refine ⟨hreq, hok, her, ?_, ?_, ?_⟩
  · rw [hreq]
    split_ifs <;> omega
  · rw [hok]
    split_ifs <;> omega
  · omega

/-! ### The guard on the bus address, which the three encoders share (R150 to R152) -/

/-- A frame behind the range check of the bus address. -/
def guardAddress (a : Nat) (frame : Bytes) : Except FrameFault Bytes :=
  if a > Config.addrMax then .error .invalidBusAddress else .ok frame

theorem encReq_eq_guardAddress (a : Nat) (c : Byte) (g : Bytes) :
    encReq a c g = guardAddress a (frameReq a c g) := rfl

theorem encOk_eq_guardAddress (a : Nat) (p : Bytes) : encOk a p = guardAddress a (frameOk a p) := rfl

theorem encEr_eq_guardAddress (a : Nat) (e : Byte) : encEr a e = guardAddress a (frameEr a e) := rfl

theorem guardAddress_of_le {a : Nat} (ha : a ≤ 99) (frame : Bytes) : guardAddress a frame = .ok frame :=
  if_neg (Nat.not_lt.2 ha)

theorem guardAddress_of_gt {a : Nat} (ha : 99 < a) (frame : Bytes) :
    guardAddress a frame = .error .invalidBusAddress :=
  if_pos ha

theorem guardAddress_eq_ok_iff {a : Nat} {frame r : Bytes} :
    guardAddress a frame = .ok r ↔ a ≤ 99 ∧ r = frame := by
  rcases Nat.lt_or_ge 99 a with ha | ha
  · simp [guardAddress_of_gt ha, ha]
  · simp [guardAddress_of_le ha, ha, eq_comm]

/-! ### The encoder operations: what each writes (R153 to R156) -/

theorem exec_encq (s : State) : exec .encq s =
    .next (applyEncoder (guardAddress s.addr.toNat (frameReq s.addr.toNat s.code s.operand)) s) := rfl

theorem exec_encok (s : State) : exec .encok s =
    .next (applyEncoder (guardAddress s.addr.toNat (frameOk s.addr.toNat s.operand)) s) := rfl

theorem exec_encer (s : State) : exec .encer s =
    .next (applyEncoder (guardAddress s.addr.toNat (frameEr s.addr.toNat s.code)) s) := rfl

/-- An encoder operation with a bus address out of range writes FAULT alone (R216). -/
theorem exec_encoder_of_gt {i : Instr} {s : State} {a : Nat} {r : Bytes}
    (hi : exec i s = .next (applyEncoder (guardAddress a r) s)) (ha : 99 < a) :
    exec i s = .next { s with fault := .invalidBusAddress } := by
  rw [hi, guardAddress_of_gt ha]
  rfl

/-- An encoder operation with a bus address in range stores its frame in FBUF and no other byte (R156). -/
theorem exec_encoder_of_le {i : Instr} {s : State} {a : Nat} {r : Bytes}
    (hi : exec i s = .next (applyEncoder (guardAddress a r) s)) (ha : a ≤ 99) : ∃ m : Memory,
    exec i s = .next { s with
      mem := m, len := BitVec.ofNat 13 r.length, acc := csum (r.take (r.length - 3))
      raddr := 0#7, rcode := 0#8, rerr := 0#16, poff := 0#13, plen := 0#13
      flags := { s.flags with valid := false, kind := false }, fault := .none } ∧
    (∀ i b, r[i]? = some b → ({ s with mem := m } : State).cell (0x1000 + i) = b) ∧
    ∀ k, k < 0x1000 ∨ 0x1000 + r.length ≤ k → ({ s with mem := m } : State).cell k = s.cell k := by
  refine ⟨(s.storeFrame r).mem, ?_, fun i b hb => ?_, fun k hk => ?_⟩
  · rw [hi, guardAddress_of_le ha]
    rfl
  · exact (State.cell_congr rfl rfl _).trans (s.storeFrame_cell_get r i b hb)
  · exact (State.cell_congr rfl rfl _).trans (s.storeFrame_cell_other r k hk)

/-- Settles O33: the two outcomes of an encoder operation, for the request frame. -/
theorem encqStoresRequestFrame : Obligations.EncqStoresRequestFrame :=
  fun s => ⟨exec_encoder_of_le (exec_encq s), exec_encoder_of_gt (exec_encq s)⟩

/-- Settles O34: the two outcomes of an encoder operation, for the success response frame, in which CODE does not occur. -/
theorem encokStoresSuccessFrame : Obligations.EncokStoresSuccessFrame :=
  fun s => ⟨exec_encoder_of_le (exec_encok s), exec_encoder_of_gt (exec_encok s)⟩

/-- Settles O35: the two outcomes of an encoder operation, for the error response frame, whose length is always 12. -/
theorem encerStoresErrorFrame : Obligations.EncerStoresErrorFrame := by
  refine fun s => ⟨fun ha => ?_, exec_encoder_of_gt (exec_encer s)⟩
  have hstored := exec_encoder_of_le (exec_encer s) ha
  rw [frameEr_length] at hstored
  exact hstored

/-! ### The checksum field and the terminator that close a frame (R80, R86) -/

theorem closeFrame_take (pre : Bytes) : (closeFrame pre).take pre.length = pre := by
  simp [closeFrame]

theorem closeFrame_checksum_field (pre : Bytes) : ((closeFrame pre).drop pre.length).take 2 = compute pre := by
  simp [closeFrame, compute, hex2]

theorem closeFrame_getElem?_term (pre : Bytes) : (closeFrame pre)[pre.length + 2]? = some Config.term := by
  simp [closeFrame, hex2]

theorem closeFrame_getElem?_sep (body : Bytes) :
    (closeFrame (body ++ [Config.sep]))[body.length]? = some Config.sep := by
  simp [closeFrame]

theorem hexDigit_upper {d : Nat} (hd : d < 16) :
    (0x30 ≤ (hexDigit d).toNat ∧ (hexDigit d).toNat ≤ 0x39) ∨
      (0x41 ≤ (hexDigit d).toNat ∧ (hexDigit d).toNat ≤ 0x46) := by
  rw [hexDigit_toNat hd]
  split_ifs <;> omega

/-- R89: both digits are decimal or upper-case letters. -/
theorem hex2_upper {v b : Byte} (hb : b ∈ hex2 v) :
    (0x30 ≤ b.toNat ∧ b.toNat ≤ 0x39) ∨ (0x41 ≤ b.toNat ∧ b.toNat ≤ 0x46) := by
  have hv := v.isLt
  rcases List.mem_pair.1 hb with rfl | rfl <;> exact hexDigit_upper (by omega)

/-! ### Where a terminator can stand: in the argument or payload alone, and at the end -/

theorem term_not_mem_hex2 (v : Byte) : Config.term ∉ hex2 v :=
  fun h => absurd (hex2_upper h) (by decide)

/-- Above 99 the tens digit would wrap, so the range of the bus address is needed. -/
theorem term_not_mem_dec2 {a : Nat} (ha : a ≤ 99) : Config.term ∉ dec2 a := by
  simp only [dec2, List.mem_pair, ← BitVec.toNat_inj, BitVec.toNat_ofNat]
  omega

theorem term_not_mem_optionalField {g : Bytes} (hg : Config.term ∉ g) : Config.term ∉ optionalField g := by
  cases g with
  | nil => exact List.not_mem_nil
  | cons b g => exact List.not_mem_cons_of_ne_of_not_mem (by decide) hg

theorem term_not_mem_tokenOk : Config.term ∉ tokenOk := by decide

theorem term_not_mem_tokenEr : Config.term ∉ tokenEr := by decide

theorem term_not_mem_statusZero : Config.term ∉ statusZero := by decide

/-- A field part without a terminator gives a frame whose first terminator is its last byte. -/
theorem firstIdx_term_closeFrame {pre : Bytes} (hpre : Config.term ∉ pre) :
    firstIdx Config.term (closeFrame pre) = some (pre.length + 2) := by
  refine firstIdx_eq_some.2 ⟨pre ++ hex2 (csum pre), [], rfl, ?_, by simp⟩
  simp only [List.mem_append, hpre, term_not_mem_hex2, or_self, not_false_eq_true]

/-- What the three encoders have in common: the frame closes a field part that ends in a separator, and a terminator in that
part comes from the argument or payload. -/
theorem exists_closeFrame_of_encoded {a : Nat} {c : Byte} {g r : Bytes}
    (h : encReq a c g = .ok r ∨ encOk a g = .ok r ∨ encEr a c = .ok r) :
    ∃ body, r = closeFrame (body ++ [Config.sep]) ∧ (Config.term ∉ g → Config.term ∉ body) := by
  rw [encReq_eq_guardAddress, encOk_eq_guardAddress, encEr_eq_guardAddress] at h
  simp only [guardAddress_eq_ok_iff] at h
  have hlead : Config.term ≠ Config.lead := by decide
  have hsep : Config.term ≠ Config.sep := by decide
  rcases h with ⟨ha, rfl⟩ | ⟨ha, rfl⟩ | ⟨ha, rfl⟩ <;> refine ⟨_, rfl, fun hg => ?_⟩
  · simp [hlead, hsep, term_not_mem_dec2 ha, term_not_mem_hex2, term_not_mem_optionalField hg]
  · simp [hsep, term_not_mem_tokenOk, term_not_mem_statusZero, term_not_mem_dec2 ha, term_not_mem_optionalField hg]
  · simp [hsep, term_not_mem_tokenEr, term_not_mem_dec2 ha, term_not_mem_hex2]

/-- Settles O39: every encoder output closes a field part that ends in a separator, so the clauses are those of `closeFrame`. -/
theorem encoderOutputShape : Obligations.EncoderOutputShape := by
  intro a c g r h
  obtain ⟨body, rfl, hbody⟩ := exists_closeFrame_of_encoded h
  have hpre : (body ++ [Config.sep]).length = body.length + 1 := by simp
  have hlen : (closeFrame (body ++ [Config.sep])).length = body.length + 4 := by simp
  have htake := closeFrame_take (body ++ [Config.sep])
  have hfield := closeFrame_checksum_field (body ++ [Config.sep])
  have hterm := closeFrame_getElem?_term (body ++ [Config.sep])
  rw [hpre] at htake hfield hterm
  dsimp only
  rw [hlen, Nat.add_sub_cancel, show body.length + 4 - 3 = body.length + 1 from rfl, htake, hfield]
  refine ⟨by omega, hterm, closeFrame_getElem?_sep body, rfl, fun b hb => hex2_upper hb,
    (verifyAcceptsOwnChecksum _).1, fun hg => ?_⟩
  have hmem : Config.term ∉ body ++ [Config.sep] := by
    simp only [List.mem_append, hbody hg, false_or]
    decide
  rw [firstIdx_term_closeFrame hmem, hpre]
  rfl

end Sys2Proof.Machine

/-! ## The frame decoders (R170 to R183) -/

namespace Sys2Proof.Machine

/-! ### Splitting at a byte and joining again (R10) -/

theorem splitAt_ne_nil (b : Byte) (s : Bytes) : splitAt b s ≠ [] := by
  cases s with
  | nil => simp [splitAt]
  | cons x s =>
    rw [splitAt]
    split_ifs
    · simp
    · split <;> simp

theorem splitAt_cons_of_ne {b x : Byte} (hx : x ≠ b) {s t : Bytes} {ts : List Bytes} (hs : splitAt b s = t :: ts) :
    splitAt b (x :: s) = (x :: t) :: ts := by
  rw [splitAt, if_neg hx, hs]

theorem splitAt_of_not_mem {b : Byte} {t : Bytes} (ht : b ∉ t) : splitAt b t = [t] := by
  induction t with
  | nil => rfl
  | cons x t ih =>
    exact splitAt_cons_of_ne (List.ne_of_not_mem_cons ht).symm (ih (List.not_mem_of_not_mem_cons ht))

theorem splitAt_append {b : Byte} {t : Bytes} (ht : b ∉ t) (s : Bytes) :
    splitAt b (t ++ b :: s) = t :: splitAt b s := by
  induction t with
  | nil => exact if_pos rfl
  | cons x t ih =>
    exact splitAt_cons_of_ne (List.ne_of_not_mem_cons ht).symm (ih (List.not_mem_of_not_mem_cons ht))

theorem joinWith_cons (b : Byte) (t : Bytes) {ts : List Bytes} (hts : ts ≠ []) :
    joinWith b (t :: ts) = t ++ b :: joinWith b ts := by
  cases ts with
  | nil => exact absurd rfl hts
  | cons u ts => rfl

theorem joinWith_splitAt (b : Byte) (s : Bytes) : joinWith b (splitAt b s) = s := by
  induction s with
  | nil => rfl
  | cons x s ih =>
    by_cases hx : x = b
    · rw [splitAt, if_pos hx, joinWith_cons _ _ (splitAt_ne_nil b s), ih, hx]
      rfl
    · obtain ⟨t, ts, hs⟩ := List.exists_cons_of_ne_nil (splitAt_ne_nil b s)
      rw [splitAt_cons_of_ne hx hs]
      rw [hs] at ih
      cases ts with
      | nil => exact congrArg (x :: ·) ih
      | cons u ts => exact congrArg (x :: ·) ih

/-! ### Parsed fields hold digits alone, so neither a separator nor a terminator (R90, R91) -/

theorem parseDec2_eq_some_iff {d : Bytes} {a : Nat} : parseDec2 d = some a ↔
    ∃ d0 d1, d = [d0, d1] ∧ isDig d0 = true ∧ isDig d1 = true ∧ a = 10 * digVal d0 + digVal d1 := by
  constructor
  · intro h
    unfold parseDec2 at h
    split at h
    · split_ifs at h with hd
      obtain ⟨hd0, hd1⟩ := Bool.and_eq_true_iff.1 hd
      exact ⟨_, _, rfl, hd0, hd1, (Option.some.inj h).symm⟩
    · cases h
  · rintro ⟨d0, d1, rfl, hd0, hd1, rfl⟩
    simp [parseDec2, hd0, hd1]

theorem parseDec2_pair {d0 d1 : Byte} (hd0 : isDig d0 = true) (hd1 : isDig d1 = true) :
    parseDec2 [d0, d1] = some (10 * digVal d0 + digVal d1) :=
  parseDec2_eq_some_iff.2 ⟨d0, d1, rfl, hd0, hd1, rfl⟩

theorem isDig_of_parseDec2 {d : Bytes} {a : Nat} (h : parseDec2 d = some a) : ∀ b ∈ d, isDig b = true := by
  obtain ⟨d0, d1, rfl, hd0, hd1, -⟩ := parseDec2_eq_some_iff.1 h
  simp [hd0, hd1]

theorem parseDec2_dec2 {a : Nat} (ha : a ≤ 99) : parseDec2 (dec2 a) = some a := by
  have htens : (BitVec.ofNat 8 (0x30 + a / 10)).toNat = 0x30 + a / 10 := Nat.mod_eq_of_lt (by omega)
  have hunits : (BitVec.ofNat 8 (0x30 + a % 10)).toNat = 0x30 + a % 10 := Nat.mod_eq_of_lt (by omega)
  refine parseDec2_eq_some_iff.2 ⟨_, _, rfl, ?_, ?_, ?_⟩
  · rw [isDig, htens, decide_eq_true_iff]
    omega
  · rw [isDig, hunits, decide_eq_true_iff]
    omega
  · rw [digVal, digVal, htens, hunits]
    omega

theorem parseHex2_hex2 (v : Byte) : parseHex2 (hex2 v) = some v :=
  (parseHex2_eq_some_iff _ _).2 (map_fold_hex2 v)

theorem exists_pair_of_parseHex2 {c : Bytes} {v : Byte} (h : parseHex2 c = some v) : ∃ c0 c1, c = [c0, c1] :=
  List.length_eq_two.1 (length_of_map_fold_eq_hex2 ((parseHex2_eq_some_iff c v).1 h))

theorem exists_parseHex2_iff (c0 c1 : Byte) :
    (∃ v, parseHex2 [c0, c1] = some v) ↔ isHex c0 = true ∧ isHex c1 = true := by
  simp [parseHex2]

theorem sep_not_mem_of_parseDec2 {d : Bytes} {a : Nat} (h : parseDec2 d = some a) : Config.sep ∉ d :=
  fun hmem => absurd (isDig_of_parseDec2 h _ hmem) (by decide)

theorem term_not_mem_of_parseDec2 {d : Bytes} {a : Nat} (h : parseDec2 d = some a) : Config.term ∉ d :=
  fun hmem => absurd (isDig_of_parseDec2 h _ hmem) (by decide)

theorem sep_not_mem_of_parseHex2 {c : Bytes} {v : Byte} (h : parseHex2 c = some v) : Config.sep ∉ c :=
  fun hmem => absurd (isHex_of_parseHex2 h _ hmem) (by decide)

theorem term_not_mem_of_parseHex2 {c : Bytes} {v : Byte} (h : parseHex2 c = some v) : Config.term ∉ c :=
  fun hmem => absurd (isHex_of_parseHex2 h _ hmem) (by decide)

/-! ### Stages 1 to 3 accept exactly a closed sequence whose checksum field verifies (R170 to R172) -/

theorem exists_last_of_mem {b : Byte} {s : Bytes} (hb : b ∈ s) : ∃ x y, s = x ++ b :: y ∧ b ∉ y := by
  induction s with
  | nil => exact absurd hb List.not_mem_nil
  | cons c s ih =>
    by_cases hs : b ∈ s
    · obtain ⟨x, y, rfl, hy⟩ := ih hs
      exact ⟨c :: x, y, rfl, hy⟩
    · obtain rfl := (List.mem_cons.1 hb).resolve_right hs
      exact ⟨[], s, rfl, hs⟩

/-- Stage 2 gives the parts around the last separator of the body (R171). -/
theorem eq_append_of_splitBody_eq_some {body : Bytes} {p : BodyParts} (hp : splitBody body = some p) :
    body = p.fields ++ Config.sep :: p.claimed ∧ p.pre = p.fields ++ [Config.sep] := by
  by_cases hsep : Config.sep ∈ body
  · obtain ⟨h, cl, rfl, hcl⟩ := exists_last_of_mem hsep
    obtain rfl := Option.some.inj ((splitBody_append h cl hcl).symm.trans hp)
    exact ⟨rfl, rfl⟩
  · rw [splitBody_eq_none hsep] at hp
    cases hp

/-- A sequence whose checksum field verifies reaches the field stage. A field that verifies holds neither a separator nor a
terminator, so stages 1 and 2 find it. -/
theorem runStages_of_verify {α : Type} (fieldStage : Bytes → Except FrameFault α) {h cl : Bytes} (hterm : Config.term ∉ h)
    (hv : verify (h ++ [Config.sep]) cl = true) :
    runStages fieldStage (h ++ Config.sep :: cl ++ [Config.term]) =
      { result := fieldStage h, acc := some (csum (h ++ [Config.sep])), stage3Passed := true } := by
  have hcl := (verify_eq_true_iff_parseHex2 _ _).1 hv
  have hbody : frameBody (h ++ Config.sep :: cl ++ [Config.term]) = some (h ++ Config.sep :: cl) := by
    refine frameBody_eq_some.2 ⟨rfl, ?_⟩
    simp only [List.mem_append, List.mem_cons, hterm, term_not_mem_of_parseHex2 hcl]
    decide
  simp only [runStages, hbody, splitBody_append h cl (sep_not_mem_of_parseHex2 hcl), hv, verify_length hv]
  rfl

theorem runStages_eq_ok_iff {α : Type} {fieldStage : Bytes → Except FrameFault α} {raw : Bytes} {v : α} :
    (runStages fieldStage raw).result = .ok v ↔
      ∃ h k0 k1, raw = h ++ [Config.sep] ++ [k0, k1, Config.term] ∧ Config.term ∉ h ∧
        verify (h ++ [Config.sep]) [k0, k1] = true ∧ fieldStage h = .ok v := by
  constructor
  · intro hrun
    rcases runStages_cases fieldStage raw with
      ⟨-, heq⟩ | ⟨body, p, hbody, hparts, ⟨-, heq⟩ | ⟨hv, heq⟩⟩ <;> rw [heq] at hrun
    · cases hrun
    · cases hrun
    · obtain ⟨rfl, hterm⟩ := frameBody_eq_some.1 hbody
      obtain ⟨rfl, hpre⟩ := eq_append_of_splitBody_eq_some hparts
      obtain ⟨k0, k1, hcl⟩ := List.length_eq_two.1 (verify_length hv)
      rw [hpre, hcl] at hv
      exact ⟨p.fields, k0, k1, by simp [hcl], fun hmem => hterm (List.mem_append_left _ hmem), hv, hrun⟩
  · rintro ⟨h, k0, k1, rfl, hterm, hv, hfields⟩
    have hrun := congrArg DecodeRun.result (runStages_of_verify fieldStage hterm hv)
    simpa [hfields] using hrun

/-- A closed frame always reaches the field stage. -/
theorem runStages_closeFrame {α : Type} (fieldStage : Bytes → Except FrameFault α) {h : Bytes} (hterm : Config.term ∉ h) :
    (runStages fieldStage (closeFrame (h ++ [Config.sep]))).result = fieldStage h := by
  have hv : verify (h ++ [Config.sep]) (hex2 (csum (h ++ [Config.sep]))) = true := (verifyAcceptsOwnChecksum _).1
  have hrun := congrArg DecodeRun.result (runStages_of_verify fieldStage hterm hv)
  simpa [closeFrame] using hrun

/-! ### The layouts a field stage accepts (R173, R178) -/

/-- How a decoder reads the optional field of a format: absent, or a separator and a value. Unlike `optionalField`, a present field
may be empty. -/
inductive ReceivedField : Bytes → Bytes → Prop where
  | absent : ReceivedField [] []
  | present (g : Bytes) : ReceivedField (Config.sep :: g) g

theorem receivedField_optionalField (g : Bytes) : ReceivedField (optionalField g) g := by
  cases g with
  | nil => exact .absent
  | cons b g => exact .present (b :: g)

theorem ReceivedField.term_mem_iff {field g : Bytes} (hf : ReceivedField field g) :
    Config.term ∈ field ↔ Config.term ∈ g := by
  have hsep : Config.term ≠ Config.sep := by decide
  cases hf with
  | absent => rfl
  | present => simp [hsep]

/-- Tokens joined: the first one, then the others as a received field. -/
theorem exists_receivedField_of_joinWith (t : Bytes) (ts : List Bytes) :
    ∃ field, joinWith Config.sep (t :: ts) = t ++ field ∧ ReceivedField field (joinWith Config.sep ts) := by
  cases ts with
  | nil => exact ⟨[], (List.append_nil t).symm, .absent⟩
  | cons u ts => exact ⟨_, rfl, .present _⟩

/-- A field stage's input split: the token before the received field, then tokens that join to its value. -/
theorem ReceivedField.splitAt_append {t field g : Bytes} (hf : ReceivedField field g) (ht : Config.sep ∉ t) :
    ∃ ts, splitAt Config.sep (t ++ field) = t :: ts ∧ joinWith Config.sep ts = g := by
  cases hf with
  | absent => exact ⟨[], by rw [List.append_nil, splitAt_of_not_mem ht], rfl⟩
  | present => exact ⟨_, Machine.splitAt_append ht g, joinWith_splitAt _ g⟩

/-- The fields `H` of a response frame that stage 4 accepts, and the value they give. -/
inductive ResponseLayout : Bytes → ResponseOutcome → Prop where
  | deviceError {d : Bytes} {a : Nat} {c0 c1 : Byte} (hd : parseDec2 d = some a) (hc0 : isHex c0 = true)
      (hc1 : isHex c1 = true) :
      ResponseLayout (d ++ Config.sep :: (tokenEr ++ Config.sep :: [c0, c1])) (.deviceError a c0 c1)
  | ok {d field p : Bytes} {a : Nat} (hd : parseDec2 d = some a) (hf : ReceivedField field p) :
      ResponseLayout (d ++ Config.sep :: (tokenOk ++ Config.sep :: (statusZero ++ field))) (.ok a p)

/-- The fields `H` of a request frame that stage 4 accepts, and the value they give. -/
inductive RequestLayout : Bytes → Request → Prop where
  | request {d c field g : Bytes} {a : Nat} {v : Byte} (hd : parseDec2 d = some a) (hc : parseHex2 c = some v)
      (hf : ReceivedField field g) :
      RequestLayout (Config.lead :: d ++ Config.sep :: (c ++ field)) { busAddress := a, code := v, argument := g }

/-! ### The position forms accept exactly these layouts (R173, R178) -/

theorem responseLayout_of_respFields {h : Bytes} {v : ResponseOutcome} (hok : respFields h = .ok v) :
    ResponseLayout h v := by
  unfold respFields at hok
  split at hok
  next d0 d1 h2 t0 t1 h5 c0 c1 rest =>
    split at hok
    · cases hok
    next a ha =>
      split_ifs at hok with hseps her hrest hhex htok hzero
      · obtain ⟨rfl, rfl⟩ : h2 = Config.sep ∧ h5 = Config.sep := by simpa using hseps
        obtain ⟨rfl, rfl⟩ : t0 = 0x45#8 ∧ t1 = 0x52#8 := by simpa [tokenEr] using her
        obtain ⟨hc0, hc1⟩ : isHex c0 = true ∧ isHex c1 = true := by simpa using hhex
        obtain rfl := not_not.1 hrest
        cases hok
        exact .deviceError ha hc0 hc1
      · obtain ⟨rfl, rfl⟩ : h2 = Config.sep ∧ h5 = Config.sep := by simpa using hseps
        obtain ⟨rfl, rfl⟩ : t0 = 0x4F#8 ∧ t1 = 0x4B#8 := by simpa [tokenOk] using htok
        obtain ⟨rfl, rfl⟩ : c0 = 0x30#8 ∧ c1 = 0x30#8 := by simpa [statusZero] using hzero
        split at hok
        · cases hok
          exact .ok ha .absent
        next h8 payload =>
          split_ifs at hok with hsep
          obtain rfl := not_not.1 hsep
          cases hok
          exact .ok ha (.present payload)
  · cases hok

theorem respFields_of_responseLayout {h : Bytes} {v : ResponseOutcome} (hl : ResponseLayout h v) :
    respFields h = .ok v := by
  cases hl with
  | deviceError hd hc0 hc1 =>
    obtain ⟨d0, d1, rfl, -⟩ := parseDec2_eq_some_iff.1 hd
    simp [respFields, hd, tokenEr, hc0, hc1]
  | ok hd hf =>
    obtain ⟨d0, d1, rfl, -⟩ := parseDec2_eq_some_iff.1 hd
    cases hf <;> simp [respFields, hd, tokenEr, tokenOk, statusZero]

theorem respFields_eq_ok_iff {h : Bytes} {v : ResponseOutcome} : respFields h = .ok v ↔ ResponseLayout h v :=
  ⟨responseLayout_of_respFields, respFields_of_responseLayout⟩

theorem requestLayout_of_reqFields {h : Bytes} {q : Request} (hok : reqFields h = .ok q) : RequestLayout h q := by
  unfold reqFields at hok
  split at hok
  next h0 d0 d1 h3 c0 c1 rest =>
    split_ifs at hok with hlead hsep
    obtain rfl := not_not.1 hlead
    obtain rfl := not_not.1 hsep
    split at hok
    next a c ha hc =>
      split at hok
      · cases hok
        exact .request ha hc .absent
      next h6 argument =>
        split_ifs at hok with hsep'
        obtain rfl := not_not.1 hsep'
        cases hok
        exact .request ha hc (.present argument)
    · cases hok
  · cases hok

theorem reqFields_of_requestLayout {h : Bytes} {q : Request} (hl : RequestLayout h q) : reqFields h = .ok q := by
  cases hl with
  | request hd hc hf =>
    obtain ⟨d0, d1, rfl, -⟩ := parseDec2_eq_some_iff.1 hd
    obtain ⟨c0, c1, rfl⟩ := exists_pair_of_parseHex2 hc
    cases hf <;> simp [reqFields, hd, hc]

theorem reqFields_eq_ok_iff {h : Bytes} {q : Request} : reqFields h = .ok q ↔ RequestLayout h q :=
  ⟨requestLayout_of_reqFields, reqFields_of_requestLayout⟩

/-! ### The token forms accept exactly the same layouts (R174, R179) -/

theorem responseLayout_of_respTokens {h : Bytes} {v : ResponseOutcome} (hok : respTokens h = .ok v) :
    ResponseLayout h v := by
  unfold respTokens at hok
  split at hok
  next t0 t1 t2 rest hsplit =>
    obtain ⟨field, htail, hf⟩ := exists_receivedField_of_joinWith t2 rest
    have hh : h = t0 ++ Config.sep :: (t1 ++ Config.sep :: (t2 ++ field)) := by
      rw [← joinWith_splitAt Config.sep h, hsplit, ← htail]
      rfl
    split at hok
    · cases hok
    next a ha =>
      split_ifs at hok with her htok
      · obtain ⟨rfl, rfl⟩ := her
        obtain rfl : field = [] := List.self_eq_append_right.1 htail
        split at hok
        next c0 c1 =>
          split_ifs at hok with hhex
          obtain ⟨hc0, hc1⟩ := (exists_parseHex2_iff c0 c1).1 (Option.isSome_iff_exists.1 hhex)
          cases hok
          exact hh ▸ .deviceError ha hc0 hc1
        · cases hok
      · obtain ⟨rfl, rfl⟩ := htok
        cases hok
        exact hh ▸ .ok ha hf
  · cases hok

theorem respTokens_of_responseLayout {h : Bytes} {v : ResponseOutcome} (hl : ResponseLayout h v) :
    respTokens h = .ok v := by
  have her : Config.sep ∉ tokenEr := by decide
  have htok : Config.sep ∉ tokenOk := by decide
  have hzero : Config.sep ∉ statusZero := by decide
  cases hl with
  | @deviceError d a c0 c1 hd hc0 hc1 =>
    obtain ⟨e, he⟩ := (exists_parseHex2_iff c0 c1).2 ⟨hc0, hc1⟩
    simp only [respTokens, splitAt_append (sep_not_mem_of_parseDec2 hd), splitAt_append her,
      splitAt_of_not_mem (sep_not_mem_of_parseHex2 he), hd, he]
    rfl
  | ok hd hf =>
    obtain ⟨ts, hsplit, rfl⟩ := hf.splitAt_append hzero
    simp only [respTokens, splitAt_append (sep_not_mem_of_parseDec2 hd), splitAt_append htok, hsplit, hd]
    rfl

theorem requestLayout_of_reqTokens {h : Bytes} {q : Request} (hok : reqTokens h = .ok q) : RequestLayout h q := by
  unfold reqTokens at hok
  split at hok
  next t0 t1 rest hsplit =>
    obtain ⟨field, htail, hf⟩ := exists_receivedField_of_joinWith t1 rest
    have hh : h = t0 ++ Config.sep :: (t1 ++ field) := by
      rw [← joinWith_splitAt Config.sep h, hsplit, ← htail]
      rfl
    split at hok
    next l d0 d1 =>
      split_ifs at hok with hlead
      obtain rfl := not_not.1 hlead
      split at hok
      next a c ha hc =>
        cases hok
        exact hh ▸ .request ha hc hf
      · cases hok
    · cases hok
  · cases hok

theorem reqTokens_of_requestLayout {h : Bytes} {q : Request} (hl : RequestLayout h q) : reqTokens h = .ok q := by
  cases hl with
  | @request d c field g a v hd hc hf =>
    obtain ⟨ts, hsplit, rfl⟩ := hf.splitAt_append (sep_not_mem_of_parseHex2 hc)
    have hlead : Config.sep ∉ Config.lead :: d :=
      List.not_mem_cons_of_ne_of_not_mem (by decide) (sep_not_mem_of_parseDec2 hd)
    obtain ⟨d0, d1, rfl, -⟩ := parseDec2_eq_some_iff.1 hd
    simp only [reqTokens, splitAt_append hlead, hsplit, hd, hc]
    rfl

/-! ### A field stage has one failure, so its accepted layouts determine it -/

theorem respFields_error {h : Bytes} {f : FrameFault} (herr : respFields h = .error f) : f = .malformedFrame := by
  unfold respFields at herr
  repeat' split at herr
  all_goals cases herr
  all_goals rfl

theorem respTokens_error {h : Bytes} {f : FrameFault} (herr : respTokens h = .error f) : f = .malformedFrame := by
  unfold respTokens at herr
  repeat' split at herr
  all_goals cases herr
  all_goals rfl

theorem reqFields_error {h : Bytes} {f : FrameFault} (herr : reqFields h = .error f) : f = .malformedFrame := by
  unfold reqFields at herr
  repeat' split at herr
  all_goals cases herr
  all_goals rfl

theorem reqTokens_error {h : Bytes} {f : FrameFault} (herr : reqTokens h = .error f) : f = .malformedFrame := by
  unfold reqTokens at herr
  repeat' split at herr
  all_goals cases herr
  all_goals rfl

theorem except_eq_of_ok_iff {ε α : Type} {e : ε} {r r' : Except ε α} (hr : ∀ {f}, r = .error f → f = e)
    (hr' : ∀ {f}, r' = .error f → f = e) (hok : ∀ v, r = .ok v ↔ r' = .ok v) : r = r' := by
  cases r with
  | ok v => exact ((hok v).1 rfl).symm
  | error f =>
    cases r' with
    | ok v => exact (hok v).2 rfl
    | error f' => rw [hr rfl, hr' rfl]

/-- Settles O43: both forms accept the response layouts with the same values, and fail in one way. -/
theorem responseTokenFormAgrees : Obligations.ResponseTokenFormAgrees := fun _ =>
  except_eq_of_ok_iff respFields_error respTokens_error fun _ =>
    respFields_eq_ok_iff.trans ⟨respTokens_of_responseLayout, responseLayout_of_respTokens⟩

/-- Settles O44: both forms accept the request layouts with the same values, and fail in one way. -/
theorem requestTokenFormAgrees : Obligations.RequestTokenFormAgrees := fun _ =>
  except_eq_of_ok_iff reqFields_error reqTokens_error fun _ =>
    reqFields_eq_ok_iff.trans ⟨reqTokens_of_requestLayout, requestLayout_of_reqTokens⟩

/-! ### The decoders accept exactly the closed layouts without a terminator (R177, R181) -/

theorem decResp_eq_ok_iff {raw : Bytes} {v : ResponseOutcome} : decResp raw = .ok v ↔
    ∃ h k0 k1, raw = h ++ [Config.sep] ++ [k0, k1, Config.term] ∧ Config.term ∉ h ∧
      verify (h ++ [Config.sep]) [k0, k1] = true ∧ ResponseLayout h v := by
  rw [decResp, runStages_eq_ok_iff]
  simp only [respFields_eq_ok_iff]

theorem decReq_eq_ok_iff {raw : Bytes} {q : Request} : decReq raw = .ok q ↔
    ∃ h k0 k1, raw = h ++ [Config.sep] ++ [k0, k1, Config.term] ∧ Config.term ∉ h ∧
      verify (h ++ [Config.sep]) [k0, k1] = true ∧ RequestLayout h q := by
  rw [decReq, runStages_eq_ok_iff]
  simp only [reqFields_eq_ok_iff]

/-- The payload of an outcome; an error response has none. -/
def payloadOf : ResponseOutcome → Bytes
  | .ok _ p => p
  | .deviceError _ _ _ => []

/-- A terminator among the fields of an accepted response is one in its payload. -/
theorem ResponseLayout.term_mem_iff {h : Bytes} {v : ResponseOutcome} (hl : ResponseLayout h v) :
    Config.term ∈ h ↔ Config.term ∈ payloadOf v := by
  have hsep : Config.term ≠ Config.sep := by decide
  cases hl with
  | @deviceError d a c0 c1 hd hc0 hc1 =>
    obtain ⟨e, he⟩ := (exists_parseHex2_iff c0 c1).2 ⟨hc0, hc1⟩
    simp only [List.mem_append, List.mem_cons, hsep, term_not_mem_of_parseDec2 hd, term_not_mem_tokenEr,
      false_or, payloadOf]
    simpa using term_not_mem_of_parseHex2 he
  | ok hd hf =>
    simp only [List.mem_append, List.mem_cons, hsep, term_not_mem_of_parseDec2 hd, term_not_mem_tokenOk,
      term_not_mem_statusZero, hf.term_mem_iff, false_or, payloadOf]

/-- A terminator among the fields of an accepted request is one in its argument. -/
theorem RequestLayout.term_mem_iff {h : Bytes} {q : Request} (hl : RequestLayout h q) :
    Config.term ∈ h ↔ Config.term ∈ q.argument := by
  have hlead : Config.term ≠ Config.lead := by decide
  have hsep : Config.term ≠ Config.sep := by decide
  cases hl with
  | request hd hc hf =>
    simp only [List.mem_append, List.mem_cons, hlead, hsep, term_not_mem_of_parseDec2 hd,
      term_not_mem_of_parseHex2 hc, hf.term_mem_iff, false_or]

/-! ### No encoder makes an empty payload or argument between two separators (R177, R181) -/

theorem eq_frame_of_encoded {a : Nat} {c : Byte} {g r : Bytes}
    (henc : encReq a c g = .ok r ∨ encOk a g = .ok r ∨ encEr a c = .ok r) :
    r = frameReq a c g ∨ r = frameOk a g ∨ r = frameEr a c := by
  have hframe {frame : Bytes} (h : guardAddress a frame = .ok r) : r = frame := (guardAddress_eq_ok_iff.1 h).2
  exact henc.imp hframe (Or.imp hframe hframe)

/-- A response frame never has 13 bytes, and a request frame begins with the lead byte. -/
theorem encoded_ne_emptyPayload {a : Nat} {c : Byte} {g r : Bytes}
    (henc : encReq a c g = .ok r ∨ encOk a g = .ok r ∨ encEr a c = .ok r) (d0 d1 k0 k1 : Byte) (hd0 : isDig d0 = true) :
    r ≠ [d0, d1, 0x20#8, 0x4F#8, 0x4B#8, 0x20#8, 0x30#8, 0x30#8, 0x20#8, 0x20#8, k0, k1, 0x0D#8] := by
  intro hr
  have hlen : r.length = 13 := congrArg List.length hr
  rcases eq_frame_of_encoded henc with rfl | rfl | rfl
  · obtain rfl : Config.lead = d0 := (List.cons.inj hr).1
    exact absurd hd0 (by decide)
  · rw [frameOk_length] at hlen
    split_ifs at hlen <;> omega
  · rw [frameEr_length] at hlen
    omega

/-- No encoder makes a frame of 11 bytes. -/
theorem encoded_ne_emptyArgument {a : Nat} {c : Byte} {g r : Bytes}
    (henc : encReq a c g = .ok r ∨ encOk a g = .ok r ∨ encEr a c = .ok r) (d0 d1 c0 c1 k0 k1 : Byte) :
    r ≠ [0x7E#8, d0, d1, 0x20#8, c0, c1, 0x20#8, 0x20#8, k0, k1, 0x0D#8] := by
  intro hr
  have hlen : r.length = 11 := congrArg List.length hr
  rcases eq_frame_of_encoded henc with rfl | rfl | rfl
  · rw [frameReq_length] at hlen
    split_ifs at hlen <;> omega
  · rw [frameOk_length] at hlen
    split_ifs at hlen <;> omega
  · rw [frameEr_length] at hlen
    omega

/-- Settles O41: the accepted frames are the closed layouts, here written out by position. -/
theorem acceptedResponsesByPosition : Obligations.AcceptedResponsesByPosition := by
  refine ⟨fun raw v => decResp_eq_ok_iff.trans ⟨?_, ?_⟩, ?_⟩
  · rintro ⟨h, k0, k1, rfl, hterm, hv, hl⟩
    have hpayload := mt hl.term_mem_iff.2 hterm
    cases hl with
    | deviceError hd hc0 hc1 =>
      obtain ⟨d0, d1, rfl, hd0, hd1, rfl⟩ := parseDec2_eq_some_iff.1 hd
      exact ⟨d0, d1, k0, k1, hd0, hd1, .inl ⟨_, _, hc0, hc1, rfl, hv, rfl⟩⟩
    | ok hd hf =>
      obtain ⟨d0, d1, rfl, hd0, hd1, rfl⟩ := parseDec2_eq_some_iff.1 hd
      refine ⟨d0, d1, k0, k1, hd0, hd1, .inr ?_⟩
      cases hf with
      | absent => exact .inl ⟨rfl, hv, rfl⟩
      | present => exact .inr ⟨_, hpayload, rfl, hv, rfl⟩
  · rintro ⟨d0, d1, k0, k1, hd0, hd1, hlayout⟩
    have hd := parseDec2_pair hd0 hd1
    rcases hlayout with ⟨c0, c1, hc0, hc1, rfl, hv, rfl⟩ | ⟨rfl, hv, rfl⟩ | ⟨p, hp, rfl, hv, rfl⟩
    · have hl := ResponseLayout.deviceError hd hc0 hc1
      exact ⟨_, k0, k1, rfl, mt hl.term_mem_iff.1 List.not_mem_nil, hv, hl⟩
    · have hl := ResponseLayout.ok hd .absent
      exact ⟨_, k0, k1, rfl, mt hl.term_mem_iff.1 List.not_mem_nil, hv, hl⟩
    · have hl := ResponseLayout.ok hd (.present p)
      exact ⟨_, k0, k1, rfl, mt hl.term_mem_iff.1 hp, hv, hl⟩
  · exact fun a c g r => encoded_ne_emptyPayload

/-- Settles O42: the accepted frames are the closed layouts, here written out by position. -/
theorem acceptedRequestsByPosition : Obligations.AcceptedRequestsByPosition := by
  refine ⟨fun raw q => decReq_eq_ok_iff.trans ⟨?_, ?_⟩, ?_⟩
  · rintro ⟨h, k0, k1, rfl, hterm, hv, hl⟩
    have hargument := mt hl.term_mem_iff.2 hterm
    cases hl with
    | request hd hc hf =>
      obtain ⟨d0, d1, rfl, hd0, hd1, rfl⟩ := parseDec2_eq_some_iff.1 hd
      obtain ⟨c0, c1, rfl⟩ := exists_pair_of_parseHex2 hc
      refine ⟨d0, d1, c0, c1, k0, k1, _, hd0, hd1, hc, ?_⟩
      cases hf with
      | absent => exact .inl ⟨rfl, hv, rfl⟩
      | present => exact .inr ⟨_, hargument, rfl, hv, rfl⟩
  · rintro ⟨d0, d1, c0, c1, k0, k1, c, hd0, hd1, hc, hlayout⟩
    have hd := parseDec2_pair hd0 hd1
    rcases hlayout with ⟨rfl, hv, rfl⟩ | ⟨g, hg, rfl, hv, rfl⟩
    · have hl := RequestLayout.request hd hc .absent
      exact ⟨_, k0, k1, rfl, mt hl.term_mem_iff.1 List.not_mem_nil, hv, hl⟩
    · have hl := RequestLayout.request hd hc (.present g)
      exact ⟨_, k0, k1, rfl, mt hl.term_mem_iff.1 hg, hv, hl⟩
  · exact fun a c g r => encoded_ne_emptyArgument

/-! ### Decoding what an encoder made (R183) -/

/-- A closed accepted layout decodes to its value. -/
theorem decResp_closeFrame {h : Bytes} {v : ResponseOutcome} (hl : ResponseLayout h v)
    (hterm : Config.term ∉ payloadOf v) : decResp (closeFrame (h ++ [Config.sep])) = .ok v :=
  (runStages_closeFrame respFields (mt hl.term_mem_iff.1 hterm)).trans (respFields_of_responseLayout hl)

theorem decReq_closeFrame {h : Bytes} {q : Request} (hl : RequestLayout h q) (hterm : Config.term ∉ q.argument) :
    decReq (closeFrame (h ++ [Config.sep])) = .ok q :=
  (runStages_closeFrame reqFields (mt hl.term_mem_iff.1 hterm)).trans (reqFields_of_requestLayout hl)

theorem decReq_frameReq {a : Nat} (ha : a ≤ 99) (c : Byte) {g : Bytes} (hg : Config.term ∉ g) :
    decReq (frameReq a c g) = .ok { busAddress := a, code := c, argument := g } := by
  have hl := RequestLayout.request (parseDec2_dec2 ha) (parseHex2_hex2 c) (receivedField_optionalField g)
  simpa [frameReq, prefixReq] using decReq_closeFrame hl hg

theorem decResp_frameOk {a : Nat} (ha : a ≤ 99) {p : Bytes} (hp : Config.term ∉ p) :
    decResp (frameOk a p) = .ok (.ok a p) := by
  have hl := ResponseLayout.ok (parseDec2_dec2 ha) (receivedField_optionalField p)
  simpa [frameOk, prefixOk] using decResp_closeFrame hl hp

theorem decResp_frameEr {a : Nat} (ha : a ≤ 99) {e e0 e1 : Byte} (he : [e0, e1] = hex2 e) :
    decResp (frameEr a e) = .ok (.deviceError a e0 e1) := by
  obtain ⟨he0, he1⟩ := (exists_parseHex2_iff e0 e1).1 ⟨e, he ▸ parseHex2_hex2 e⟩
  have hl := ResponseLayout.deviceError (parseDec2_dec2 ha) he0 he1
  simpa [frameEr, prefixEr, ← he] using decResp_closeFrame hl List.not_mem_nil

/-- `~01 0b B1\r`: a command code in lower case. -/
def requestLowerCaseCode : Bytes := [0x7E#8, 0x30#8, 0x31#8, 0x20#8, 0x30#8, 0x62#8, 0x20#8, 0x42#8, 0x31#8, 0x0D#8]

/-- `01 OK 00  DB\r`: an empty payload between two separators. -/
def responseEmptyPayload : Bytes :=
  [0x30#8, 0x31#8, 0x20#8, 0x4F#8, 0x4B#8, 0x20#8, 0x30#8, 0x30#8, 0x20#8, 0x20#8, 0x44#8, 0x42#8, 0x0D#8]

/-- Settles O45: each encoder closes an accepted layout of its own fields; a code in lower case and an empty payload between two
separators decode to values that are encoded in another way. -/
theorem encodeDecodeRoundTrip : Obligations.EncodeDecodeRoundTrip := by
  refine ⟨fun a c g ha hg => ?_,
    ⟨requestLowerCaseCode, { busAddress := 1, code := 0x0B#8, argument := [] }, frameReq 1 0x0B#8 [], rfl, rfl, by decide⟩,
    ⟨responseEmptyPayload, 1, [], frameOk 1 [], rfl, rfl, by decide⟩⟩
  exact ⟨⟨_, guardAddress_of_le ha (frameReq a c g), decReq_frameReq ha c hg⟩,
    ⟨_, guardAddress_of_le ha (frameOk a g), decResp_frameOk ha hg⟩,
    ⟨_, _, _, guardAddress_of_le ha (frameEr a c), rfl, decResp_frameEr ha rfl⟩⟩

end Sys2Proof.Machine

/-! ## Host accesses to the registers, and NOP (R200 to R202) -/

namespace Sys2Proof.Machine

/-! ### NOP -/

theorem exec_nop (s : State) : exec .nop s = .next { s with fault := .none } := rfl

/-- Settles O27: NOP does nothing but complete, and completing writes FAULT alone. -/
theorem nopClearsFaultOnly : Obligations.NopClearsFaultOnly := exec_nop

/-! ### Operations complete, and leave the model's own fields to the host (R13, R218; logs 1, 3, 4) -/

/-- The fields of `State` that are not the block's agree. -/
def State.SameHostSide (s t : State) : Prop :=
  t.cfg = s.cfg ∧ t.draw = s.draw ∧ t.input = s.input ∧ t.reply = s.reply

theorem applyEncoder_sameHostSide (r : Except FrameFault Bytes) (s : State) : s.SameHostSide (applyEncoder r s) := by
  rcases applyEncoder_cases r s with ⟨f, -, h⟩ | ⟨b, -, h⟩
  · rw [h]
    exact ⟨rfl, rfl, rfl, rfl⟩
  · rw [h]
    exact ⟨rfl, rfl, rfl, rfl⟩

theorem deliverResponse_sameHostSide (o : ResponseOutcome) (s : State) : s.SameHostSide (deliverResponse o s) := by
  cases o <;> exact ⟨rfl, rfl, rfl, rfl⟩

theorem deliverRequest_sameHostSide (q : Request) (s : State) : s.SameHostSide (deliverRequest q s) :=
  ⟨rfl, rfl, rfl, rfl⟩

theorem applyDecoder_sameHostSide {α : Type} {deliver : α → State → State}
    (hdeliver : ∀ (x : α) (s : State), s.SameHostSide (deliver x s)) (d : DecodeRun α) (s : State) :
    s.SameHostSide (applyDecoder deliver d s) := by
  rcases applyDecoder_cases deliver d s with ⟨f, -, h⟩ | ⟨x, -, h⟩
  · rw [h]
    exact ⟨rfl, rfl, rfl, rfl⟩
  · rw [h]
    exact hdeliver x { s with acc := d.acc.getD s.acc }

/-- Every operation answers a next state, in which the fields that are not the block's are as before. -/
theorem exec_sameHostSide (i : Instr) (s : State) : ∃ t, exec i s = .next t ∧ s.SameHostSide t := by
  cases i with
  | nop => exact ⟨_, exec_nop s, rfl, rfl, rfl, rfl⟩
  | cclr => exact ⟨_, exec_cclr s, rfl, rfl, rfl, rfl⟩
  | cacc => exact ⟨_, exec_cacc s, rfl, rfl, rfl, rfl⟩
  | csum => exact ⟨_, exec_csum s, rfl, rfl, rfl, rfl⟩
  | cvfy => exact ⟨_, exec_cvfy s, rfl, rfl, rfl, rfl⟩
  | encq => exact ⟨_, exec_encq s, applyEncoder_sameHostSide _ s⟩
  | encok => exact ⟨_, exec_encok s, applyEncoder_sameHostSide _ s⟩
  | encer => exact ⟨_, exec_encer s, applyEncoder_sameHostSide _ s⟩
  | decr => exact ⟨_, rfl, applyDecoder_sameHostSide deliverResponse_sameHostSide _ s⟩
  | decq => exact ⟨_, rfl, applyDecoder_sameHostSide deliverRequest_sameHostSide _ s⟩

/-! ### The CMD write: the value selects an operation or is illegal (R37, R214) -/

theorem runCommand_of_ok {v : Word} {i : Instr} (h : decode v = .ok i) (s : State) : runCommand v s = exec i s := by
  rw [runCommand, h]

theorem runCommand_of_error {v : Word} {e : DecodeError} (h : decode v = .error e) (s : State) :
    runCommand v s = .next { s with fault := .illegalCommand } := by
  rw [runCommand, h]
  rfl

/-- A command never stops the block, and the host's reply is the one the write left. -/
theorem runCommand_sameHostSide (v : Word) (s : State) : ∃ t, runCommand v s = .next t ∧ s.SameHostSide t := by
  cases h : decode v with
  | ok i => exact runCommand_of_ok h s ▸ exec_sameHostSide i s
  | error e => exact ⟨_, runCommand_of_error h s, rfl, rfl, rfl, rfl⟩

/-! ### The step that reads a register (R201) -/

theorem step_of_pending {s : State} {e : HostEvent} {rest : List HostEvent} (hin : s.input = e :: rest) :
    step s = applyEvent e { s with input := rest } := by
  rw [step, stepPending, hin]

/-- Registers do not read the pending input. -/
@[simp] theorem State.readReg_with_input (s : State) (es : List HostEvent) (r : Reg) :
    ({ s with input := es } : State).readReg r = s.readReg r := by
  cases r <;> rfl

theorem step_read_reg {s : State} {r : Reg} {rest : List HostEvent}
    (hin : s.input = .read (BitVec.ofNat 16 r.number) :: rest) :
    step s = .next { s with input := rest, reply := .hostData (s.readReg r) } := by
  rw [step_of_pending hin]
  simp [applyEvent, hostRead, State.readValue]

/-- R38: the three flags are bits 0, 1 and 2. -/
theorem Flags.word_toNat (f : Flags) : f.word.toNat = f.valid.toNat + 2 * f.matched.toNat + 4 * f.kind.toNat := by
  obtain ⟨valid, matched, kind⟩ := f
  revert valid matched kind
  decide

theorem FaultCode.toNat_ofNat_number (f : FaultCode) : (BitVec.ofNat 16 f.number).toNat = f.number := by
  cases f <;> rfl

/-- Settles O13: a read answers `readReg`, whose value is, register by register, the field zero-extended. -/
theorem registerReadReturnsValue : Obligations.RegisterReadReturnsValue := by
  intro s r rest hin
  refine ⟨s.readReg r, step_read_reg hin, ?_⟩
  cases r with
  | cmd | claim | addr | rerr => rfl
  | flags => exact s.flags.word_toNat
  | fault => exact s.fault.toNat_ofNat_number
  | cstr => exact s.cstr_chars
  | acc | din | len | alen | code | raddr | rcode | poff | plen => exact BitVec.toNat_setWidth_of_le (by decide)

/-! ### The step that writes a register (R202) -/

/-- A write of CMD stores the value and runs the command (R37). -/
theorem step_write_cmd {s : State} {v : Word} {rest : List HostEvent}
    (hin : s.input = .write (BitVec.ofNat 16 Reg.cmd.number) v :: rest) :
    step s = runCommand v { s with cmd := v, input := rest, reply := .hostOk } :=
  step_of_pending hin

/-- A write of any other register does what `writeReg` says. -/
theorem step_write_reg {s : State} {r : Reg} {v : Word} {rest : List HostEvent} (hr : r ≠ .cmd)
    (hin : s.input = .write (BitVec.ofNat 16 r.number) v :: rest) :
    step s = .next { s.writeReg v r with input := rest, reply := .hostOk } := by
  rw [step_of_pending hin]
  cases r with
  | cmd => exact absurd rfl hr
  | _ => rfl

/-- A length register takes a value up to its limit and ignores a larger one (R26, R27). No limit is above 4096 (R7), so the 13
bits hold the whole value. -/
theorem limited_length_write {v : Word} {old : BitVec 13} {limit : Nat} (hlimit : limit ≤ 4096) :
    (v.toNat ≤ limit → (if v.toNat ≤ limit then v.setWidth 13 else old).toNat = v.toNat) ∧
    (limit < v.toNat → (if v.toNat ≤ limit then v.setWidth 13 else old) = old) := by
  constructor
  · intro hv
    rw [if_pos hv, BitVec.toNat_setWidth]
    omega
  · intro hv
    exact if_neg (by omega)

/-- Settles O14: a CMD write is the run of a command, which keeps the reply; each other register by its own line of `writeReg`. -/
theorem registerWriteFollowsTable : Obligations.RegisterWriteFollowsTable := by
  intro s r v rest hwf hin
  obtain ⟨-, hmax⟩ := hwf
  cases r with
  | cmd =>
    have hrun := step_write_cmd hin
    constructor
    · cases h : decode v with
      | ok i => exact hrun.trans (runCommand_of_ok h _)
      | error e => exact hrun.trans (runCommand_of_error h _)
    · obtain ⟨t, ht, -, -, -, hreply⟩ := runCommand_sameHostSide v { s with cmd := v, input := rest, reply := .hostOk }
      exact ⟨t, hrun.trans ht, hreply⟩
  | claim | addr | flags | fault | acc | cstr | raddr | rcode | rerr | poff | plen =>
    exact step_write_reg (by decide) hin
  | din | code =>
    rw [← BitVec.setWidth_eq_extractLsb' (by decide)]
    exact step_write_reg (by decide) hin
  | len => exact ⟨_, step_write_reg (by decide) hin, rfl, limited_length_write hmax⟩
  | alen => exact ⟨_, step_write_reg (by decide) hin, rfl, limited_length_write ((Nat.sub_le _ _).trans hmax)⟩

end Sys2Proof.Machine

/-! ## Recorded faults: IllegalCommand, InvalidBusAddress, and what a decoder operation leaves (R210 to R222) -/

namespace Sys2Proof.Machine

/-! ### The commands that write FAULT alone (R214, R216) -/

/-- Settles O4: the CMD write runs a value that decodes to no operation. -/
theorem illegalCommandIsRecorded : Obligations.IllegalCommandIsRecorded := by
  intro s v rest hin hv
  have hrun := runCommand_of_error (decode_eq_error_of_ten_le hv) { s with cmd := v, input := rest, reply := .hostOk }
  exact ⟨_, (step_write_cmd hin).trans hrun, rfl, rfl⟩

/-- The three encoder operations alike: a bus address out of range writes FAULT alone. -/
theorem exec_encoder_of_addr_gt {i : Instr} {s : State} (hi : i = .encq ∨ i = .encok ∨ i = .encer)
    (ha : 99 < s.addr.toNat) : exec i s = .next { s with fault := .invalidBusAddress } := by
  rcases hi with rfl | rfl | rfl
  · exact exec_encoder_of_gt (exec_encq s) ha
  · exact exec_encoder_of_gt (exec_encok s) ha
  · exact exec_encoder_of_gt (exec_encer s) ha

/-- Settles O36: the CMD write runs the encoder with the ADDR it finds, which the write of CMD leaves alone. -/
theorem invalidBusAddressLeavesStateAlone : Obligations.InvalidBusAddressLeavesStateAlone := by
  intro s i rest hi ha hin
  have hexec := exec_encoder_of_addr_gt (s := { s with cmd := encode i, input := rest, reply := .hostOk }) hi ha
  exact ⟨_, (step_write_cmd hin).trans ((runCommand_of_ok (decode_encode i) _).trans hexec), rfl, rfl⟩

/-! ### Where the stages fail (R170 to R173, R178) -/

/-- Stage 1 or 2 fails: the sequence does not end in its only terminator, or its body has no separator. -/
theorem runStages_of_malformed {α : Type} (fieldStage : Bytes → Except FrameFault α) {raw : Bytes}
    (hraw : (¬ ∃ body, raw = body ++ [Config.term] ∧ Config.term ∉ body) ∨
      ∃ body, raw = body ++ [Config.term] ∧ Config.term ∉ body ∧ Config.sep ∉ body) :
    runStages fieldStage raw = { result := .error .malformedFrame, acc := none, stage3Passed := false } := by
  rcases hraw with hopen | ⟨body, hclosed, hterm, hsep⟩
  · have hbody : frameBody raw = none :=
      Option.eq_none_iff_forall_ne_some.2 fun body hsome => hopen ⟨body, frameBody_eq_some.1 hsome⟩
    simp only [runStages, hbody]
  · have hbody : frameBody raw = some body := frameBody_eq_some.2 ⟨hclosed, hterm⟩
    simp only [runStages, hbody, splitBody_eq_none hsep]

/-- Stage 3 fails: the field after the last separator does not verify. -/
theorem runStages_of_mismatch {α : Type} (fieldStage : Bytes → Except FrameFault α) {h cl : Bytes}
    (hterm : Config.term ∉ h) (hclterm : Config.term ∉ cl) (hsep : Config.sep ∉ cl)
    (hv : verify (h ++ [Config.sep]) cl = false) :
    runStages fieldStage (h ++ Config.sep :: cl ++ [Config.term]) =
      { result := .error .checksumMismatch, acc := some (csum (h ++ [Config.sep])), stage3Passed := false } := by
  have hne : Config.term ≠ Config.sep := by decide
  have hbody : frameBody (h ++ Config.sep :: cl ++ [Config.term]) = some (h ++ Config.sep :: cl) :=
    frameBody_eq_some.2 ⟨rfl, by simp [hterm, hclterm, hne]⟩
  simp only [runStages, hbody, splitBody_append h cl hsep, hv, or_true, if_true]

/-- The field stage alone fails: the checksum comparison has passed, so ACC is known. -/
theorem runStages_of_malformed_fields {α : Type} {fieldStage : Bytes → Except FrameFault α} {h cl : Bytes}
    (hterm : Config.term ∉ h) (hv : verify (h ++ [Config.sep]) cl = true)
    (hfields : fieldStage h = .error .malformedFrame) :
    runStages fieldStage (h ++ Config.sep :: cl ++ [Config.term]) =
      { result := .error .malformedFrame, acc := some (csum (h ++ [Config.sep])), stage3Passed := true } := by
  rw [runStages_of_verify fieldStage hterm hv, hfields]

/-! ### The decoder operations: what each writes (R176, R182, R217) -/

theorem exec_decr (s : State) : exec .decr s =
    .next (applyDecoder deliverResponse (runStages respFields s.frame) s) := rfl

theorem exec_decq (s : State) : exec .decq s =
    .next (applyDecoder deliverRequest (runStages reqFields s.frame) s) := rfl

@[simp] theorem State.frame_length (s : State) : s.frame.length = s.len.toNat :=
  s.cells_length _ _

/-- A decoder operation on stages that fail clears the results and delivers nothing (R217). -/
theorem exec_decoder_of_error {α : Type} {i : Instr} {s : State} {deliver : α → State → State}
    {fieldStage : Bytes → Except FrameFault α} {f : FrameFault} {acc : Option Byte} {passed : Bool}
    (hi : exec i s = .next (applyDecoder deliver (runStages fieldStage s.frame) s))
    (hrun : runStages fieldStage s.frame = { result := .error f, acc := acc, stage3Passed := passed }) :
    exec i s = .next { s with
      acc := acc.getD s.acc, raddr := 0#7, rcode := 0#8, rerr := 0#16, poff := 0#13, plen := 0#13
      flags := { valid := false, matched := passed, kind := false }, fault := faultCodeOf f } := by
  rw [hi, hrun]
  rfl

/-- A decoder operation on a frame that decodes: ACC takes the checksum of everything before the field and the terminator, and
the value is delivered (R172, R176, R182). -/
theorem exec_decoder_of_ok {α : Type} {i : Instr} {s : State} {deliver : α → State → State}
    {fieldStage : Bytes → Except FrameFault α} {v : α}
    (hi : exec i s = .next (applyDecoder deliver (runStages fieldStage s.frame) s))
    (hok : (runStages fieldStage s.frame).result = .ok v) :
    exec i s = .next
      { deliver v { s with acc := csum (s.frame.take (s.len.toNat - 3)) } with fault := .none } := by
  obtain ⟨h, k0, k1, hframe, hterm, hv, hfields⟩ := runStages_eq_ok_iff.1 hok
  have hlen : s.len.toNat - 3 = (h ++ [Config.sep]).length := by
    have := congrArg List.length hframe
    simp only [State.frame_length, List.length_append, List.length_cons, List.length_nil] at this ⊢
    omega
  have htake : s.frame.take (s.len.toNat - 3) = h ++ [Config.sep] := by
    rw [hlen, hframe, List.take_left]
  have hrun : runStages fieldStage s.frame =
      { result := .ok v, acc := some (csum (h ++ [Config.sep])), stage3Passed := true } := by
    rw [hframe, ← hfields, ← runStages_of_verify fieldStage hterm hv]
    simp
  rw [hi, hrun, htake]
  rfl

/-- Settles O50: each stage's failure for both decoders, and stage 4 fails in one way only. -/
theorem faultingDecodeState : Obligations.FaultingDecodeState := by
  intro s
  refine ⟨fun hraw => ⟨?_, ?_⟩, fun h cl hframe hterm hclterm hsep => ⟨fun hv => ⟨?_, ?_⟩, fun hv => ⟨?_, ?_⟩⟩⟩
  · exact exec_decoder_of_error (exec_decr s) (runStages_of_malformed respFields hraw)
  · exact exec_decoder_of_error (exec_decq s) (runStages_of_malformed reqFields hraw)
  · exact exec_decoder_of_error (exec_decr s) (hframe ▸ runStages_of_mismatch respFields hterm hclterm hsep hv)
  · exact exec_decoder_of_error (exec_decq s) (hframe ▸ runStages_of_mismatch reqFields hterm hclterm hsep hv)
  · intro f hfields
    obtain rfl := respFields_error hfields
    exact exec_decoder_of_error (exec_decr s) (hframe ▸ runStages_of_malformed_fields hterm hv hfields)
  · intro f hfields
    obtain rfl := reqFields_error hfields
    exact exec_decoder_of_error (exec_decq s) (hframe ▸ runStages_of_malformed_fields hterm hv hfields)

/-! ### The bus address and the place of the payload in a decoded response (R176) -/

theorem parseDec2_le {d : Bytes} {a : Nat} (h : parseDec2 d = some a) : a ≤ 99 := by
  obtain ⟨d0, d1, -, hd0, hd1, rfl⟩ := parseDec2_eq_some_iff.1 h
  simp only [isDig, decide_eq_true_iff] at hd0 hd1
  simp only [digVal]
  omega

/-- The bus address of an outcome, of either kind. -/
def busAddressOf : ResponseOutcome → Nat
  | .ok a _ => a
  | .deviceError a _ _ => a

theorem busAddressOf_le_of_decResp {raw : Bytes} {v : ResponseOutcome} (hok : decResp raw = .ok v) :
    busAddressOf v ≤ 99 := by
  obtain ⟨h, k0, k1, -, -, -, hl⟩ := decResp_eq_ok_iff.1 hok
  cases hl with
  | deviceError hd hc0 hc1 => exact parseDec2_le hd
  | ok hd hf => exact parseDec2_le hd

/-- Thirteen bytes stand around a payload, nine of them before it; a frame without the optional field has twelve in all. -/
theorem decResp_ok_payload {raw p : Bytes} {a : Nat} (hok : decResp raw = .ok (.ok a p)) :
    p.length = raw.length - 13 ∧ ∀ i b, p[i]? = some b → raw[9 + i]? = some b := by
  obtain ⟨h, k0, k1, rfl, -, -, hl⟩ := decResp_eq_ok_iff.1 hok
  cases hl with
  | ok hd hf =>
    obtain ⟨d0, d1, rfl, -⟩ := parseDec2_eq_some_iff.1 hd
    cases hf with
    | absent => exact ⟨rfl, fun i b hb => by simp at hb⟩
    | present =>
      refine ⟨by simp [tokenOk, statusZero], fun i b hb => ?_⟩
      obtain ⟨hi, -⟩ := List.getElem?_eq_some_iff.1 hb
      simpa [tokenOk, statusZero, Nat.add_comm 9 i, List.getElem?_append_left hi] using hb

theorem State.cell_of_frame_getElem? {s : State} {i : Nat} {b : Byte} (h : s.frame[i]? = some b) :
    s.cell (0x1000 + i) = b := by
  obtain ⟨hi, -⟩ := List.getElem?_eq_some_iff.1 h
  rw [State.frame_length] at hi
  exact Option.some.inj ((s.cells_getElem? Config.fbufBase s.len.toNat i hi).symm.trans h)

/-- Settles O48: the delivery of each outcome; the payload keeps its place in the frame, and RERR packs the two characters. -/
theorem decrDeliversOutcome : Obligations.DecrDeliversOutcome := by
  refine fun s => ⟨fun a p hok => ?_, fun a e0 e1 herr => ?_⟩
  · obtain ⟨hlength, hplace⟩ := decResp_ok_payload hok
    rw [State.frame_length] at hlength
    refine ⟨exec_decoder_of_ok (exec_decr s) hok, busAddressOf_le_of_decResp hok, hlength, fun i b hb => ?_⟩
    rw [Nat.add_assoc]
    exact State.cell_of_frame_getElem? (hplace i b hb)
  · exact ⟨_, exec_decoder_of_ok (exec_decr s) herr, busAddressOf_le_of_decResp herr, rfl, char0_pack2 e0 e1,
      char1_pack2 e0 e1⟩

end Sys2Proof.Machine

/-! ## The reset state: the current byte sequence is empty, and what CSUM and DECR do on it (R242) -/

namespace Sys2Proof.Machine

theorem State.resetWith_afterReset (c : Config) (d : Nat) : (State.resetWith c d).AfterReset := rfl

theorem State.AfterReset.frame {s : State} (h : s.AfterReset) : s.frame = [] :=
  State.frame_eq_nil (congrArg State.len h)

/-- CSUM on an empty current sequence clears ACC. -/
theorem exec_csum_of_frame_nil {s : State} (h : s.frame = []) :
    exec .csum s = .next { s with acc := 0#8, fault := .none } := by
  rw [exec_csum, h, csum]

/-- The empty sequence has no terminator, so stage 1 already fails. -/
theorem runStages_nil {α : Type} (fieldStage : Bytes → Except FrameFault α) :
    runStages fieldStage [] = { result := .error .malformedFrame, acc := none, stage3Passed := false } :=
  runStages_of_malformed fieldStage <| .inl fun ⟨_, hclosed, _⟩ => List.concat_ne_nil _ _ hclosed.symm

/-- DECR on an empty current sequence: MalformedFrame, no outcome, and ACC kept. -/
theorem exec_decr_of_frame_nil {s : State} (h : s.frame = []) : exec .decr s = .next { s with
    raddr := 0#7, rcode := 0#8, rerr := 0#16, poff := 0#13, plen := 0#13
    flags := { valid := false, matched := false, kind := false }, fault := .malformedFrame } :=
  exec_decoder_of_error (exec_decr s) (h ▸ runStages_nil respFields)

/-- Settles O12: the reset state's current sequence is empty, so CSUM sums nothing and DECR's first stage fails. -/
theorem resetStateMeaning : Obligations.ResetStateMeaning := by
  intro c d s
  have hframe : s.frame = [] := (State.resetWith_afterReset c d).frame
  have hchars : [char0 (s.readReg .cstr), char1 (s.readReg .cstr)] = compute [] := s.cstr_chars
  exact ⟨rfl, hchars, hframe, rfl, rfl, ⟨_, exec_csum_of_frame_nil hframe, rfl⟩,
    ⟨_, exec_decr_of_frame_nil hframe, rfl⟩⟩

end Sys2Proof.Machine

/-! ## What an operation and a step can do, the invariant, and what follows for the whole machine (R21, R38 to R45, R65, R252) -/

namespace Sys2Proof.Machine

/-! ### Requests: the place of the argument in a decoded frame (R182) -/

theorem busAddress_le_of_decReq {raw : Bytes} {q : Request} (hok : decReq raw = .ok q) : q.busAddress ≤ 99 := by
  obtain ⟨h, k0, k1, -, -, -, hl⟩ := decReq_eq_ok_iff.1 hok
  cases hl with
  | request hd hc hf => exact parseDec2_le hd

/-- Eleven bytes stand around an argument, seven of them before it; a frame without the optional field has ten in all. -/
theorem decReq_ok_argument {raw : Bytes} {q : Request} (hok : decReq raw = .ok q) :
    q.argument.length = raw.length - 11 ∧ ∀ i b, q.argument[i]? = some b → raw[7 + i]? = some b := by
  obtain ⟨h, k0, k1, rfl, -, -, hl⟩ := decReq_eq_ok_iff.1 hok
  cases hl with
  | request hd hc hf =>
    obtain ⟨d0, d1, rfl, -⟩ := parseDec2_eq_some_iff.1 hd
    obtain ⟨c0, c1, rfl⟩ := exists_pair_of_parseHex2 hc
    cases hf with
    | absent => exact ⟨rfl, fun i b hb => by simp at hb⟩
    | present =>
      refine ⟨by simp, fun i b hb => ?_⟩
      obtain ⟨hi, -⟩ := List.getElem?_eq_some_iff.1 hb
      simpa [Nat.add_comm 7 i, List.getElem?_append_left hi] using hb

/-- Settles O49: the delivery of the request; the argument keeps its place in the frame. -/
theorem decqDeliversRequest : Obligations.DecqDeliversRequest := by
  intro s q hok
  obtain ⟨hlength, hplace⟩ := decReq_ok_argument hok
  rw [State.frame_length] at hlength
  refine ⟨exec_decoder_of_ok (exec_decq s) hok, busAddress_le_of_decReq hok, hlength, fun i b hb => ?_⟩
  rw [Nat.add_assoc]
  exact State.cell_of_frame_getElem? (hplace i b hb)

theorem isHex_of_decResp_deviceError {raw : Bytes} {a : Nat} {c0 c1 : Byte}
    (hok : decResp raw = .ok (.deviceError a c0 c1)) : isHex c0 = true ∧ isHex c1 = true := by
  obtain ⟨h, k0, k1, -, -, -, hl⟩ := decResp_eq_ok_iff.1 hok
  cases hl with
  | deviceError hd hc0 hc1 => exact ⟨hc0, hc1⟩

/-! ### What an operation can do (R100, R126 to R129, R153 to R156, R176, R182, R216, R217) -/

/-- The operations that write FBUF. -/
def IsEncoder (i : Instr) : Prop := i = .encq ∨ i = .encok ∨ i = .encer

/-- The operations that write the result registers with a decoded value. -/
def IsDecoder (i : Instr) : Prop := i = .decr ∨ i = .decq

/-- The states an operation can leave. -/
inductive ExecEffect (s : State) : Instr → State → Prop where
  /-- NOP and the checksum operations write ACC, MATCH and FAULT at most. -/
  | computed {i : Instr} (acc : Byte) (matched : Bool) :
      ExecEffect s i { s with acc := acc, flags := { s.flags with matched := matched }, fault := .none }
  /-- An encoder with a bus address out of range. -/
  | addressFault {i : Instr} : ExecEffect s i { s with fault := .invalidBusAddress }
  /-- An encoder that stores its frame, which fits in FBUF when the operand fits in ABUF. -/
  | encoded {i : Instr} {frame : Bytes} (hi : IsEncoder i)
      (hfit : s.cfg.Wf → s.alen.toNat ≤ s.cfg.argMax → frame.length ≤ s.cfg.frameMax) :
      ExecEffect s i { s with
        mem := s.mem.writeSeq Config.fbufBase frame, len := BitVec.ofNat 13 frame.length
        acc := csum (frame.take (frame.length - 3))
        raddr := 0#7, rcode := 0#8, rerr := 0#16, poff := 0#13, plen := 0#13
        flags := { s.flags with valid := false, kind := false }, fault := .none }
  /-- A decoder whose stages fail. -/
  | decodeFault {i : Instr} (acc : Byte) (matched : Bool) (fault : FaultCode) :
      ExecEffect s i { s with
        acc := acc, raddr := 0#7, rcode := 0#8, rerr := 0#16, poff := 0#13, plen := 0#13
        flags := { valid := false, matched := matched, kind := false }, fault := fault }
  /-- A decoder that delivers a value: a bus address in range, an error code exactly of an error response, a payload or
  argument inside the current sequence. -/
  | decoded {i : Instr} {acc : Byte} {raddr : BitVec 7} {rcode : Byte} {rerr : Word} {poff plen : BitVec 13} {kind : Bool}
      (hi : IsDecoder i) (hraddr : raddr.toNat ≤ 99) (hno : kind = false → rerr = 0#16)
      (hcode : kind = true →
        isHex (char0 rerr) = true ∧ isHex (char1 rerr) = true ∧ poff = 0#13 ∧ plen = 0#13)
      (hinside : poff.toNat + plen.toNat ≤ max 9 s.len.toNat) :
      ExecEffect s i { s with
        acc := acc, raddr := raddr, rcode := rcode, rerr := rerr, poff := poff, plen := plen
        flags := { valid := true, matched := true, kind := kind }, fault := .none }

theorem execEffect_of_encoder {i : Instr} {s t : State} {a : Nat} {frame : Bytes}
    (hexec : exec i s = .next (applyEncoder (guardAddress a frame) s)) (h : exec i s = .next t) (hi : IsEncoder i)
    (hfit : s.cfg.Wf → s.alen.toNat ≤ s.cfg.argMax → frame.length ≤ s.cfg.frameMax) : ExecEffect s i t := by
  obtain rfl := Host.Outcome.next.inj (h.symm.trans hexec)
  rcases Nat.lt_or_ge 99 a with ha | ha
  · rw [guardAddress_of_gt ha]
    exact .addressFault
  · rw [guardAddress_of_le ha]
    exact .encoded hi hfit

theorem toNat_ofNat_le {w : Nat} (n : Nat) : (BitVec.ofNat w n).toNat ≤ n := by
  rw [BitVec.toNat_ofNat]
  exact Nat.mod_le _ _

theorem execEffect_of_decResp {s : State} {v : ResponseOutcome} (hok : decResp s.frame = .ok v) (acc : Byte) :
    ExecEffect s .decr { deliverResponse v { s with acc := acc } with fault := .none } := by
  have haddr := busAddressOf_le_of_decResp hok
  cases v with
  | ok a p =>
    obtain ⟨hlength, -⟩ := decResp_ok_payload hok
    rw [State.frame_length] at hlength
    refine .decoded (.inl rfl) ((toNat_ofNat_le a).trans haddr) (fun _ => rfl) (fun h => nomatch h) ?_
    have hplen := toNat_ofNat_le (w := 13) p.length
    change 9 + (BitVec.ofNat 13 p.length).toNat ≤ _
    omega
  | deviceError a c0 c1 =>
    obtain ⟨hc0, hc1⟩ := isHex_of_decResp_deviceError hok
    refine .decoded (.inl rfl) ((toNat_ofNat_le a).trans haddr) (fun h => nomatch h) (fun _ => ?_) (Nat.zero_le _)
    simp [deliverResponse, hc0, hc1]

theorem execEffect_of_decReq {s : State} {q : Request} (hok : decReq s.frame = .ok q) (acc : Byte) :
    ExecEffect s .decq { deliverRequest q { s with acc := acc } with fault := .none } := by
  obtain ⟨hlength, -⟩ := decReq_ok_argument hok
  rw [State.frame_length] at hlength
  refine .decoded (.inr rfl) ((toNat_ofNat_le _).trans (busAddress_le_of_decReq hok)) (fun _ => rfl) (fun h => nomatch h) ?_
  have hplen := toNat_ofNat_le (w := 13) q.argument.length
  change 7 + (BitVec.ofNat 13 q.argument.length).toNat ≤ _
  omega

theorem execEffect_of_exec {i : Instr} {s t : State} (h : exec i s = .next t) : ExecEffect s i t := by
  cases i with
  | nop | cclr | cacc | csum | cvfy =>
    cases h
    exact .computed _ _
  | encq =>
    refine execEffect_of_encoder (exec_encq s) h (.inl rfl) fun hwf halen => ?_
    obtain ⟨-, -, -, hreq, -, -⟩ := encodedFramesFitBuffer s s.addr.toNat s.code hwf halen
    exact hreq
  | encok =>
    refine execEffect_of_encoder (exec_encok s) h (.inr (.inl rfl)) fun hwf halen => ?_
    obtain ⟨-, -, -, -, hok, -⟩ := encodedFramesFitBuffer s s.addr.toNat s.code hwf halen
    exact hok
  | encer =>
    refine execEffect_of_encoder (exec_encer s) h (.inr (.inr rfl)) fun hwf halen => ?_
    obtain ⟨-, -, -, -, -, her⟩ := encodedFramesFitBuffer s s.addr.toNat s.code hwf halen
    exact her
  | decr =>
    obtain rfl := Host.Outcome.next.inj (h.symm.trans (exec_decr s))
    rcases applyDecoder_cases deliverResponse (runStages respFields s.frame) s with ⟨f, -, heq⟩ | ⟨v, hok, heq⟩ <;> rw [heq]
    · exact .decodeFault _ _ _
    · exact execEffect_of_decResp hok _
  | decq =>
    obtain rfl := Host.Outcome.next.inj (h.symm.trans (exec_decq s))
    rcases applyDecoder_cases deliverRequest (runStages reqFields s.frame) s with ⟨f, -, heq⟩ | ⟨q, hok, heq⟩ <;> rw [heq]
    · exact .decodeFault _ _ _
    · exact execEffect_of_decReq hok _

/-! ### What a step can do (R37, R62, R202, R204, R214, R240, R241) -/

/-- The states a step can leave. -/
inductive StepEffect (s : State) : State → Prop where
  | idle (hin : s.input = []) : StepEffect s s
  | read {a : Word} {rest : List HostEvent} (hin : s.input = .read a :: rest) (reply : Reply) :
      StepEffect s { s with input := rest, reply := reply }
  | operation {v : Word} {rest : List HostEvent} {i : Instr} {t : State} (hin : s.input = .write 0x0000#16 v :: rest)
      (hdecode : decode v = .ok i) (heffect : ExecEffect { s with cmd := v, input := rest, reply := .hostOk } i t) :
      StepEffect s t
  | illegal {v : Word} {rest : List HostEvent} (hin : s.input = .write 0x0000#16 v :: rest) :
      StepEffect s { s with cmd := v, fault := .illegalCommand, input := rest, reply := .hostOk }
  | writeReg {a v : Word} {rest : List HostEvent} (hin : s.input = .write a v :: rest) {r : Reg} (hr : r ≠ .cmd) :
      StepEffect s { s.writeReg v r with input := rest, reply := .hostOk }
  | writeCell {a v : Word} {rest : List HostEvent} (hin : s.input = .write a v :: rest)
      (htarget : targetOf s.cfg a = some (.cell a.toNat)) :
      StepEffect s { s with mem := s.mem.write a.toNat (v.setWidth 8), input := rest, reply := .hostOk }
  | reset {rest : List HostEvent} (hin : s.input = .reset :: rest) :
      StepEffect s ({ s with input := rest } : State).applyReset

theorem step_of_idle {s : State} (hin : s.input = []) : step s = .next s := by
  rw [step, stepPending, hin]

theorem writeReg_with_input (s : State) (es : List HostEvent) (v : Word) (r : Reg) :
    ({ s with input := es } : State).writeReg v r = { s.writeReg v r with input := es } := by
  cases r <;> rfl

theorem stepEffect_of_runCommand {s t : State} {v : Word} {rest : List HostEvent}
    (hin : s.input = .write 0x0000#16 v :: rest)
    (hrun : runCommand v { s with cmd := v, input := rest, reply := .hostOk } = .next t) : StepEffect s t := by
  cases hdecode : decode v with
  | ok i =>
    rw [runCommand_of_ok hdecode] at hrun
    exact .operation hin hdecode (execEffect_of_exec hrun)
  | error e =>
    rw [runCommand_of_error hdecode] at hrun
    cases hrun
    exact .illegal hin

theorem stepEffect_of_step {s t : State} (h : step s = .next t) : StepEffect s t := by
  rcases hin : s.input with _ | ⟨e, rest⟩
  · rw [step_of_idle hin] at h
    cases h
    exact .idle hin
  rw [step_of_pending hin] at h
  cases e with
  | read a =>
    rcases hostRead_cases a { s with input := rest } with ⟨-, heq⟩ | ⟨r, -, heq⟩ | ⟨-, heq⟩ <;>
      cases heq.symm.trans h
    · exact .read hin _
    · exact .read hin _
  | write a v =>
    rcases hostWrite_cases a v { s with input := rest } with
      ⟨-, heq⟩ | ⟨rfl, heq⟩ | ⟨r, hr, -, heq⟩ | ⟨htarget, heq⟩
    · cases heq.symm.trans h
    · exact stepEffect_of_runCommand hin (heq.symm.trans h)
    · rw [writeReg_with_input] at heq
      cases heq.symm.trans h
      exact .writeReg hin hr
    · cases heq.symm.trans h
      exact .writeCell hin htarget
  | reset =>
    cases h
    exact .reset hin

/-! ### The invariant (R26, R27, R32, R34 to R36, R38) -/

/-- The invariant says nothing of the registers that hold any value, of MATCH, or of the model's own fields but the parameter. -/
theorem State.Inv.withUnconstrained {s : State} (hs : s.Inv) (cmd : Word) (matched : Bool) (fault : FaultCode) (acc : Byte)
    (claim : Word) (din : Byte) (addr : Word) (code : Byte) (draw : Nat) (input : List HostEvent) (reply : Reply) :
    ({ s with
      cmd := cmd, flags := { s.flags with matched := matched }, fault := fault, acc := acc, claim := claim, din := din
      addr := addr, code := code, draw := draw, input := input, reply := reply } : State).Inv :=
  { hs with }

theorem State.resetWith_inv {c : Config} (d : Nat) (hc : c.Wf) : (State.resetWith c d).Inv where
  cfgWf := hc
  memWf := State.resetWith_memWf c d
  memMapped := fun _ h => absurd h List.not_mem_nil
  lenLe := Nat.zero_le _
  alenLe := Nat.zero_le _
  raddrLe := Nat.zero_le _
  clearWhenInvalid := fun _ => ⟨rfl, rfl, rfl, rfl, rfl, rfl⟩
  errorCode := ⟨fun _ => rfl, fun h => nomatch h⟩
  payloadInside := Nat.zero_le _

/-- Settles O54: all registers are zero and no cell is listed. -/
theorem resetHasInvariant : Obligations.ResetHasInvariant :=
  ⟨State.resetWith_inv 0 (by decide : Config.worked.Wf), fun _ d hc => State.resetWith_inv d hc⟩

theorem ExecEffect.inv {s t : State} {i : Instr} (h : ExecEffect s i t) (hs : s.Inv) : t.Inv := by
  have hmin : 9 ≤ s.cfg.frameMax := le_trans (by decide) hs.cfgWf.1
  cases h with
  | computed | addressFault => exact hs.withUnconstrained ..
  | encoded hi hfit =>
    have hlength := hfit hs.cfgWf hs.alenLe
    exact { hs with
      memWf := Memory.writeSeq_wf hs.memWf _
      memMapped := fun c hc => (Memory.mem_writeSeq hc).elim
        (fun ⟨hlo, hhi⟩ => .inl ⟨hlo, hhi.trans_le (Nat.add_le_add_left hlength _)⟩) (hs.memMapped c)
      lenLe := (toNat_ofNat_le _).trans hlength
      raddrLe := Nat.zero_le _
      clearWhenInvalid := fun _ => ⟨rfl, rfl, rfl, rfl, rfl, rfl⟩
      errorCode := ⟨fun _ => rfl, fun h => nomatch h⟩
      payloadInside := Nat.zero_le _ }
  | decodeFault =>
    exact { hs with
      raddrLe := Nat.zero_le _
      clearWhenInvalid := fun _ => ⟨rfl, rfl, rfl, rfl, rfl, rfl⟩
      errorCode := ⟨fun _ => rfl, fun h => nomatch h⟩
      payloadInside := Nat.zero_le _ }
  | decoded hi hraddr hno hcode hinside =>
    exact { hs with
      raddrLe := hraddr
      clearWhenInvalid := fun h => nomatch h
      errorCode := ⟨hno, hcode⟩
      payloadInside := hinside.trans (max_le hmin hs.lenLe) }

/-- A length register is written with a value up to its limit or kept. -/
theorem limited_length_le {v : Word} {old : BitVec 13} {limit : Nat} (hold : old.toNat ≤ limit) :
    (if v.toNat ≤ limit then v.setWidth 13 else old).toNat ≤ limit := by
  split_ifs with hv
  · rw [BitVec.toNat_setWidth]
    exact (Nat.mod_le _ _).trans hv
  · exact hold

theorem State.Inv.writeReg {s : State} (hs : s.Inv) (v : Word) (r : Reg) : (s.writeReg v r).Inv := by
  cases r with
  | len => exact { hs with lenLe := limited_length_le hs.lenLe }
  | alen => exact { hs with alenLe := limited_length_le hs.alenLe }
  | cmd | claim | din | addr | code => exact hs.withUnconstrained ..
  | flags | fault | acc | cstr | raddr | rcode | rerr | poff | plen => exact hs

theorem State.Inv.writeCell {s : State} (hs : s.Inv) {a : Word} (b : Byte)
    (htarget : targetOf s.cfg a = some (.cell a.toNat)) : ({ s with mem := s.mem.write a.toNat b } : State).Inv :=
  { hs with
    memWf := Memory.write_wf hs.memWf _ b
    memMapped := fun c hc => (Memory.mem_write hc).elim
      (fun h => h ▸ (targetOf_eq_cell htarget).2) (hs.memMapped c) }

/-- Settles O53: each way a step can end keeps the invariant; the decoders need what the accepted layouts say of their
values, the encoders that their frame fits. -/
theorem stepKeepsInvariant : Obligations.StepKeepsInvariant := by
  intro s t hs h
  cases stepEffect_of_step h with
  | idle => exact hs
  | read | illegal => exact hs.withUnconstrained ..
  | operation hin hdecode heffect => exact heffect.inv (hs.withUnconstrained ..)
  | writeReg => exact (hs.writeReg _ _).withUnconstrained ..
  | writeCell hin htarget => exact (hs.writeCell _ htarget).withUnconstrained ..
  | reset => exact (State.resetWith_inv _ hs.cfgWf).withUnconstrained ..

end Sys2Proof.Machine

/-! ## Whole-machine rules: operands, buffers, VALID, FAULT, the parameter, and reset (R21, R37 to R45, R65, R240, R252) -/

namespace Sys2Proof.Machine

/-! ### What every operation keeps (R40) -/

theorem ExecEffect.operands {s t : State} {i : Instr} (h : ExecEffect s i t) :
    t.cmd = s.cmd ∧ t.claim = s.claim ∧ t.din = s.din ∧ t.alen = s.alen ∧ t.addr = s.addr ∧ t.code = s.code ∧
      t.cfg = s.cfg ∧ t.draw = s.draw ∧ t.input = s.input ∧ t.reply = s.reply := by
  cases h <;> exact ⟨rfl, rfl, rfl, rfl, rfl, rfl, rfl, rfl, rfl, rfl⟩

/-- Only an encoder writes LEN and FBUF, and of FBUF the cells of its frame alone (R41, R42, R156). -/
theorem ExecEffect.buffers {s t : State} {i : Instr} (h : ExecEffect s i t) :
    (t.len = s.len ∧ ∀ a, t.cell a = s.cell a) ∨
    (IsEncoder i ∧ ∃ n, (s.cfg.Wf → s.alen.toNat ≤ s.cfg.argMax → n ≤ s.cfg.frameMax) ∧ t.len = BitVec.ofNat 13 n ∧
      ∀ a, a < 0x1000 ∨ 0x1000 + n ≤ a → t.cell a = s.cell a) := by
  cases h with
  | computed | addressFault | decodeFault | decoded => exact .inl ⟨rfl, fun _ => rfl⟩
  | encoded hi hfit => exact .inr ⟨hi, _, hfit, rfl, State.storeFrame_cell_other _ s⟩

/-- Settles O55, by what an operation keeps; an encoder's frame ends before ABUF begins. -/
theorem operationsKeepOperands : Obligations.OperationsKeepOperands := by
  intro i s t hexec
  have heffect := execEffect_of_exec hexec
  refine ⟨heffect.operands, fun hq hok her => ?_, fun hs a ha => ?_⟩
  · rcases heffect.buffers with hkeeps | ⟨rfl | rfl | rfl, -⟩
    · exact hkeeps
    · exact absurd rfl hq
    · exact absurd rfl hok
    · exact absurd rfl her
  · rcases heffect.buffers with ⟨-, hcells⟩ | ⟨-, n, hfit, -, hcells⟩
    · exact hcells a
    · have hn := hfit hs.cfgWf hs.alenLe
      have hmax := hs.cfgWf.2
      exact hcells a (.inr (by omega))

/-! ### What a register write keeps -/

@[simp] theorem State.writeReg_cfg (s : State) (v : Word) (r : Reg) : (s.writeReg v r).cfg = s.cfg := by
  rw [writeReg_frame]

@[simp] theorem State.writeReg_flags (s : State) (v : Word) (r : Reg) : (s.writeReg v r).flags = s.flags := by
  rw [writeReg_frame]

@[simp] theorem State.writeReg_fault (s : State) (v : Word) (r : Reg) : (s.writeReg v r).fault = s.fault := by
  rw [writeReg_frame]

@[simp] theorem State.writeReg_cell (s : State) (v : Word) (r : Reg) (a : Nat) : (s.writeReg v r).cell a = s.cell a := by
  rw [writeReg_frame]
  rfl

/-! ### The parameter, VALID, FAULT and the buffer cells across a step -/

/-- Settles O8. -/
theorem stepKeepsParameter : Obligations.StepKeepsParameter := by
  intro s t h
  cases stepEffect_of_step h with
  | operation hin hdecode heffect =>
    obtain ⟨-, -, -, -, -, -, hcfg, -⟩ := heffect.operands
    exact hcfg
  | writeReg => exact s.writeReg_cfg _ _
  | idle | read | illegal | writeCell | reset => rfl

/-- An operation that leaves VALID set found it set, or is a decoder that has delivered a value. -/
theorem ExecEffect.valid {s t : State} {i : Instr} (h : ExecEffect s i t) (hvalid : t.flags.valid = true) :
    s.flags.valid = true ∨ (IsDecoder i ∧ t.fault = .none ∧ t.flags.matched = true) := by
  cases h with
  | computed | addressFault => exact .inl hvalid
  | encoded | decodeFault => cases hvalid
  | decoded hi => exact .inr ⟨hi, rfl, rfl⟩

/-- Settles O58: of all that a step can do, only an operation raises VALID. -/
theorem onlyDecodersSetValid : Obligations.OnlyDecodersSetValid := by
  intro s t h hclear hvalid
  have hsame : t.flags ≠ s.flags := fun heq => by rw [heq, hclear] at hvalid; cases hvalid
  cases stepEffect_of_step h with
  | @operation v rest i _ hin hdecode heffect =>
    rcases heffect.valid hvalid with hset | ⟨rfl | rfl, hfault, hmatched⟩
    · exact absurd (hclear.symm.trans hset) Bool.false_ne_true
    · exact ⟨v, rest, hin, .inl hdecode, hfault, hmatched⟩
    · exact ⟨v, rest, hin, .inr hdecode, hfault, hmatched⟩
  | writeReg => exact absurd (s.writeReg_flags _ _) hsame
  | idle | read | illegal | writeCell => exact absurd rfl hsame
  | reset => cases hvalid

/-- Settles O59: host reads and the other host writes leave FAULT alone. -/
theorem faultChangesOnlyByCommand : Obligations.FaultChangesOnlyByCommand := by
  intro s t h hfault
  cases stepEffect_of_step h with
  | operation hin | illegal hin => exact ⟨_, .inr ⟨_, hin⟩⟩
  | reset hin => exact ⟨_, .inl hin⟩
  | writeReg => exact absurd (s.writeReg_fault _ _) hfault
  | idle | read | writeCell => exact absurd rfl hfault

theorem State.cell_write (s : State) (k : Nat) (b : Byte) (a : Nat) :
    ({ s with mem := s.mem.write k b } : State).cell a = if a = k then b else s.cell a := by
  rw [State.cell, Memory.read_write]
  split_ifs <;> rfl

/-- Settles O60: a host write of a cell changes no other, and an operation changes the cells of a new frame at most; under the
invariant LEN counts that frame without loss. -/
theorem cellKeepsByteUntilWritten : Obligations.CellKeepsByteUntilWritten := by
  intro s t a hs h hchanged
  cases stepEffect_of_step h with
  | @operation v rest i _ hin hdecode heffect =>
    rcases heffect.buffers with ⟨-, hcells⟩ | ⟨hi, n, hfit, hlen, hcells⟩
    · exact absurd (hcells a) hchanged
    · have hn : n ≤ 4096 := (hfit hs.cfgWf hs.alenLe).trans hs.cfgWf.2
      have hlength : t.len.toNat = n := by
        rw [hlen, BitVec.toNat_ofNat]
        omega
      have hinside := mt (hcells a) hchanged
      exact ⟨rest, .inr (.inr ⟨v, i, hin, hdecode, hi, by omega, by omega⟩)⟩
  | @writeCell k v rest hin htarget =>
    have hcell := s.cell_write k.toNat (v.setWidth 8) a
    split_ifs at hcell with hk
    · rw [BitVec.setWidth_eq_extractLsb' (by decide)] at hcell
      exact ⟨rest, .inr (.inl ⟨k, v, hin, hk.symm, hcell⟩)⟩
    · exact absurd hcell hchanged
  | reset hin => exact ⟨_, .inl hin⟩
  | writeReg => exact absurd (s.writeReg_cell _ _ a) hchanged
  | idle | read | illegal => exact absurd rfl hchanged

/-! ### The step that runs an operation, the idle step, and reset (R37, R240, R241, R252) -/

/-- Settles O3. -/
theorem stepRunsDecodedOperation : Obligations.StepRunsDecodedOperation :=
  fun _ _ _ _ hin hdecode => (step_write_cmd hin).trans (runCommand_of_ok hdecode _)

/-- Settles O5. -/
theorem idleStepChangesNothing : Obligations.IdleStepChangesNothing := fun _ hin => step_of_idle hin

/-- After a reset no cell is listed, so each holds the byte of the new draw. -/
theorem State.applyReset_cell (s : State) (a : Nat) : s.applyReset.cell a = Config.unwrittenByte (s.draw + 1) a := rfl

/-- Settles O10. -/
theorem resetEventDrawsBuffersAnew : Obligations.ResetEventDrawsBuffersAnew := by
  intro s rest hin
  exact ⟨_, step_of_pending hin, State.applyReset_afterReset _, rfl, rfl, State.applyReset_cell _⟩

/-- Settles O11: `AfterReset` fixes every register that the three premises speak of. -/
theorem afterResetImpliesLaunchPremises : Obligations.AfterResetImpliesLaunchPremises := by
  refine ⟨State.reset_afterReset, fun s h => ?_⟩
  rw [h]
  exact ⟨rfl, ⟨rfl, rfl, rfl, rfl, rfl, rfl, rfl⟩, rfl⟩

end Sys2Proof.Machine

/-! ## Decoding on the machine what an encoder operation has stored (R183) -/

namespace Sys2Proof.Machine

/-- An encoder operation leaves its frame as the current byte sequence, provided LEN can count it. -/
theorem exec_encoder_frame {i : Instr} {s : State} {a : Nat} {r : Bytes}
    (hi : exec i s = .next (applyEncoder (guardAddress a r) s)) (ha : a ≤ 99) (hr : r.length < 2 ^ 13) :
    ∃ t, exec i s = .next t ∧ t.frame = r := by
  rw [guardAddress_of_le ha] at hi
  have hframe : (applyEncoder (.ok r) s).frame = (s.storeFrame r).frame := State.frame_congr rfl rfl rfl
  exact ⟨_, hi, hframe.trans (s.frame_storeFrame r hr)⟩

/-- Under the invariant every frame made of the operand can be counted by LEN. -/
theorem State.Inv.encoded_length_lt {s : State} (hs : s.Inv) (a : Nat) (c : Byte) :
    (frameReq a c s.operand).length < 2 ^ 13 ∧ (frameOk a s.operand).length < 2 ^ 13 := by
  obtain ⟨-, -, -, hreq, hok, -⟩ := encodedFramesFitBuffer s a c hs.cfgWf hs.alenLe
  have hmax := hs.cfgWf.2
  omega

theorem busAddress_toNat {a : Nat} (ha : a ≤ 99) : (BitVec.ofNat 7 a).toNat = a := by
  rw [BitVec.toNat_ofNat]
  omega

/-- PLEN takes the length of a decoded operand without loss, since ALEN holds it. -/
theorem State.ofNat_operand_length (s : State) : BitVec.ofNat 13 s.operand.length = s.alen := by
  rw [State.operand_length, BitVec.ofNat_toNat, BitVec.setWidth_eq]

/-- Cells that hold the operand byte by byte, as many as it has, read as the operand. -/
theorem State.cells_eq_operand {s u : State} {a : Nat} (hplace : ∀ i b, s.operand[i]? = some b → u.cell (a + i) = b) :
    u.cells a (BitVec.ofNat 13 s.operand.length).toNat = s.operand := by
  rw [s.ofNat_operand_length, ← s.operand_length]
  exact u.cells_eq_of_get a s.operand hplace

/-- Settles O51: ENCQ stores the request frame, which decodes to the operands, and DECQ delivers what decodes. -/
theorem encqThenDecqRecoversRequest : Obligations.EncqThenDecqRecoversRequest := by
  intro s hs ha hterm
  obtain ⟨t, hencq, hframe⟩ := exec_encoder_frame (exec_encq s) ha (hs.encoded_length_lt _ _).1
  have hdecode := decReq_frameReq ha s.code hterm
  rw [← hframe] at hdecode
  obtain ⟨hdecq, -, -, hplace⟩ := decqDeliversRequest t _ hdecode
  exact ⟨t, _, hencq, hdecq, busAddress_toNat ha, rfl, s.ofNat_operand_length, rfl, rfl, rfl,
    State.cells_eq_operand hplace, rfl⟩

/-- Settles O52: ENCOK and ENCER store frames that decode to their operands, and DECR delivers what decodes. -/
theorem encodedResponsesDecodeBack : Obligations.EncodedResponsesDecodeBack := by
  refine fun s hs ha => ⟨fun hterm => ?_, ?_⟩
  · obtain ⟨t, hencok, hframe⟩ := exec_encoder_frame (exec_encok s) ha (hs.encoded_length_lt _ s.code).2
    have hdecode := decResp_frameOk ha hterm
    rw [← hframe] at hdecode
    obtain ⟨hdecr, -, -, hplace⟩ := (decrDeliversOutcome t).1 _ _ hdecode
    exact ⟨t, _, hencok, hdecr, busAddress_toNat ha, s.ofNat_operand_length, rfl, rfl, rfl,
      State.cells_eq_operand hplace⟩
  · have hlength : (frameEr s.addr.toNat s.code).length < 2 ^ 13 := by
      rw [frameEr_length]
      decide
    obtain ⟨t, hencer, hframe⟩ := exec_encoder_frame (exec_encer s) ha hlength
    have hdecode := decResp_frameEr (e := s.code) ha rfl
    rw [← hframe] at hdecode
    obtain ⟨u, hdecr, -, hu, hc0, hc1⟩ := (decrDeliversOutcome t).2 _ _ _ hdecode
    rw [hu] at hdecr
    refine ⟨t, _, hencer, hdecr, busAddress_toNat ha, ?_, rfl, rfl⟩
    rw [hc0, hc1]
    rfl

end Sys2Proof.Machine

/-! ## Parsing, the checksum under a changed byte, and the stages of the decoders (R84 to R92, R100, R125, R170 to R185, R247) -/

namespace Sys2Proof.Machine

/-! ### The command word and the parsed fields (R88 to R92, R100) -/

theorem encode_eq_of_decode_eq_ok {v : Word} {i : Instr} (h : decode v = .ok i) : encode i = v := by
  unfold decode at h
  split at h
  case h_11 => cases h
  all_goals
    cases h
    exact BitVec.eq_of_toNat_eq (Eq.symm ‹v.toNat = _›)

/-- Settles O2. -/
theorem commandWordDecodesIffEncoded : Obligations.CommandWordDecodesIffEncoded :=
  fun _ i => ⟨encode_eq_of_decode_eq_ok, fun h => h ▸ decode_encode i⟩

/-- A decimal digit is the one of its value. -/
theorem ofNat_digVal {d : Byte} (hd : isDig d = true) : BitVec.ofNat 8 (0x30 + digVal d) = d ∧ digVal d ≤ 9 := by
  rw [isDig, decide_eq_true_iff] at hd
  constructor
  · apply BitVec.eq_of_toNat_eq
    rw [BitVec.toNat_ofNat, digVal]
    omega
  · rw [digVal]
    omega

theorem eq_dec2_of_parseDec2 {s : Bytes} {a : Nat} (h : parseDec2 s = some a) : s = dec2 a := by
  obtain ⟨d0, d1, rfl, hd0, hd1, rfl⟩ := parseDec2_eq_some_iff.1 h
  obtain ⟨heq0, hle0⟩ := ofNat_digVal hd0
  obtain ⟨heq1, hle1⟩ := ofNat_digVal hd1
  have htens : (10 * digVal d0 + digVal d1) / 10 = digVal d0 := by omega
  have hunits : (10 * digVal d0 + digVal d1) % 10 = digVal d1 := by omega
  rw [dec2, htens, hunits, heq0, heq1]

/-- Settles O19: two decimal digits are `dec2` of their value, which is at most 99. -/
theorem parseDec2IffDec2 : Obligations.ParseDec2IffDec2 := by
  intro s a
  constructor
  · exact fun h => ⟨parseDec2_le h, eq_dec2_of_parseDec2 h⟩
  · rintro ⟨ha, rfl⟩
    exact parseDec2_dec2 ha

/-- Settles O20. -/
theorem parseHex2IffFoldedHex2 : Obligations.ParseHex2IffFoldedHex2 := parseHex2_eq_some_iff

/-! ### The current sequences as buffer cells (R26, R27) -/

/-- Settles O26. -/
theorem sequencesAreBufferCells : Obligations.SequencesAreBufferCells :=
  fun s => ⟨s.frame_length, s.cells_getElem? _ _, s.operand_length, s.cells_getElem? _ _⟩

/-! ### The frames by position (R84) -/

theorem optionalField_of_ne_nil {g : Bytes} (hg : g ≠ []) : optionalField g = Config.sep :: g := by
  cases g with
  | nil => exact absurd rfl hg
  | cons b g => rfl

/-- Settles O38: with the address and the code at their two characters each, the formats are the tables; a field that is not
empty brings its separator. -/
theorem framesFollowPositionTables : Obligations.FramesFollowPositionTables := by
  intro a c g _ t u
  refine ⟨⟨_, _, _, _, rfl, rfl, rfl⟩, fun hg => ⟨_, _, _, _, rfl, ?_, rfl⟩, ⟨_, _, rfl, rfl⟩,
    fun hg => ⟨_, _, ?_, rfl⟩, ⟨_, _, _, _, rfl, rfl, rfl⟩⟩
  · simp [frameReq, prefixReq, closeFrame, optionalField_of_ne_nil hg, dec2, hex2, t, u]
  · simp [frameOk, prefixOk, closeFrame, optionalField_of_ne_nil hg, dec2, hex2, tokenOk, statusZero, t, u]

/-! ### A changed byte changes the checksum (R125) -/

/-- Replacing a byte keeps the checksum only when the byte is replaced by itself. -/
theorem getElem?_of_csum_set {s : Bytes} {i : Nat} {b : Byte} (hi : i < s.length) (h : csum (s.set i b) = csum s) :
    s[i]? = some b := by
  induction s generalizing i with
  | nil => exact absurd hi (Nat.not_lt_zero i)
  | cons c s ih =>
    cases i with
    | zero => exact congrArg some ((BitVec.add_left_inj (csum s)).1 h).symm
    | succ i => exact ih (Nat.lt_of_succ_lt_succ hi) ((BitVec.add_right_inj c).1 h)

/-- A claim verifies against one checksum only. -/
theorem csum_eq_of_verify {s s' cl : Bytes} (hs : verify s cl = true) (hs' : verify s' cl = true) : csum s' = csum s :=
  Option.some.inj (((verify_eq_true_iff_parseHex2 s' cl).1 hs').symm.trans ((verify_eq_true_iff_parseHex2 s cl).1 hs))

/-- A claim that verifies does not verify any more when one byte of the sequence is changed. -/
theorem verify_set_eq_false {s cl : Bytes} {i : Nat} {b : Byte} (hi : i < s.length) (hb : s[i]? ≠ some b)
    (hv : verify s cl = true) : verify (s.set i b) cl = false :=
  Bool.eq_false_iff.2 fun hset => hb (getElem?_of_csum_set hi (csum_eq_of_verify hv hset))

/-- Settles O25. -/
theorem oneChangedByteIsDetected : Obligations.OneChangedByteIsDetected := by
  refine ⟨fun s i b hi hb => ⟨fun h => hb (getElem?_of_csum_set hi h), ?_⟩, fun s t => ?_⟩
  · exact verify_set_eq_false hi hb (verifyAcceptsOwnChecksum s).1
  · simp [csum_append, csum]

/-! ### The stages in order (R170 to R173, R178) -/

/-- Settles O40: `runStages` at the three places where it can stop before the field stage, and at the field stage. -/
theorem decoderStagesInOrder : Obligations.DecoderStagesInOrder := by
  intro raw
  have hresult {α : Type} {stage : Bytes → Except FrameFault α} {d : DecodeRun α} (h : runStages stage raw = d) :
      (runStages stage raw).result = d.result := congrArg DecodeRun.result h
  refine ⟨fun hopen => ?_, ?_⟩
  · exact ⟨hresult (runStages_of_malformed respFields (.inl hopen)), hresult (runStages_of_malformed reqFields (.inl hopen))⟩
  rintro body rfl hterm
  refine ⟨fun hsep => ?_, ?_⟩
  · exact ⟨hresult (runStages_of_malformed respFields (.inr ⟨body, rfl, hterm, hsep⟩)),
      hresult (runStages_of_malformed reqFields (.inr ⟨body, rfl, hterm, hsep⟩))⟩
  rintro h cl rfl hsep
  obtain ⟨hh, hcl⟩ : Config.term ∉ h ∧ Config.term ∉ cl := by
    constructor <;> exact fun hmem => hterm (by simp [hmem])
  refine ⟨fun hv => ?_, fun hv => ?_⟩
  · exact ⟨hresult (runStages_of_mismatch respFields hh hcl hsep hv), hresult (runStages_of_mismatch reqFields hh hcl hsep hv)⟩
  · exact ⟨hresult (runStages_of_verify respFields hh hv), hresult (runStages_of_verify reqFields hh hv)⟩

/-! ### A terminator inside the argument or payload (R247) -/

/-- A closed frame with a terminator among its fields does not end in its only terminator. -/
theorem runStages_closeFrame_of_term_mem {α : Type} (fieldStage : Bytes → Except FrameFault α) {pre : Bytes}
    (hpre : Config.term ∈ pre) : (runStages fieldStage (closeFrame pre)).result = .error .malformedFrame := by
  refine congrArg DecodeRun.result (runStages_of_malformed fieldStage (.inl ?_))
  rintro ⟨body, heq, hbody⟩
  obtain ⟨rfl, -⟩ := List.append_inj' heq rfl
  exact hbody (List.mem_append_left _ hpre)

theorem mem_optionalField {b : Byte} {g : Bytes} (hb : b ∈ g) : b ∈ optionalField g := by
  rw [optionalField_of_ne_nil (List.ne_nil_of_mem hb)]
  exact List.mem_cons_of_mem _ hb

/-- Settles O46: the argument or payload stands whole among the fields of its frame. -/
theorem terminatorInArgumentIsRejected : Obligations.TerminatorInArgumentIsRejected := by
  intro a c g hg
  have hfield : Config.term ∈ optionalField g := mem_optionalField hg
  have hreq : Config.term ∈ prefixReq a c g := List.mem_append_left _ (List.mem_append_right _ hfield)
  have hok : Config.term ∈ prefixOk a g := List.mem_append_left _ (List.mem_append_right _ hfield)
  exact ⟨runStages_closeFrame_of_term_mem reqFields hreq, runStages_closeFrame_of_term_mem respFields hreq,
    runStages_closeFrame_of_term_mem reqFields hok, runStages_closeFrame_of_term_mem respFields hok⟩

end Sys2Proof.Machine

/-! ## One changed byte of an accepted frame (R185) -/

namespace Sys2Proof.Machine

/-- Claims that verify against one sequence have the same upper-case form. -/
theorem map_fold_eq_of_verify {s c c' : Bytes} (h : verify s c = true) (h' : verify s c' = true) :
    c.map fold = c'.map fold :=
  ((verify_eq_true_iff s c).1 h).trans ((verify_eq_true_iff s c').1 h').symm

/-- A byte changed among the last three of an accepted frame: not the terminator, which both frames end in, and of the checksum
field nothing but the case. -/
theorem closing_bytes_set {pre : Bytes} {k0 k1 l0 l1 b : Byte} {m : Nat} (hm : m < 3)
    (hb : [k0, k1, Config.term][m]? ≠ some b) (hset : [k0, k1, Config.term].set m b = [l0, l1, Config.term])
    (hk : verify pre [k0, k1] = true) (hl : verify pre [l0, l1] = true) :
    m < 2 ∧ [k0, k1, Config.term][m]?.map fold = some (fold b) := by
  have hfold := map_fold_eq_of_verify hk hl
  match m with
  | 0 =>
    obtain ⟨rfl, rfl⟩ : b = l0 ∧ k1 = l1 := by simpa using hset
    exact ⟨by decide, by simpa using hfold⟩
  | 1 =>
    obtain ⟨rfl, rfl⟩ : k0 = l0 ∧ b = l1 := by simpa using hset
    exact ⟨by decide, by simpa using hfold⟩
  | 2 =>
    obtain ⟨-, -, rfl⟩ : k0 = l0 ∧ k1 = l1 ∧ b = Config.term := by simpa using hset
    exact absurd rfl hb

/-- Two accepted frames that differ in one byte: a changed byte before the checksum field would change the checksum, so the field
stage works on the same fields. -/
theorem runStages_set_ok {α : Type} {fieldStage : Bytes → Except FrameFault α} {raw : Bytes} {j : Nat} {b : Byte} {v w : α}
    (hj : j < raw.length) (hb : raw[j]? ≠ some b) (hv : (runStages fieldStage raw).result = .ok v)
    (hw : (runStages fieldStage (raw.set j b)).result = .ok w) :
    w = v ∧ raw.length - 3 ≤ j ∧ j < raw.length - 1 ∧ raw[j]?.map fold = some (fold b) := by
  obtain ⟨h, k0, k1, rfl, -, hk, hfields⟩ := runStages_eq_ok_iff.1 hv
  obtain ⟨h', l0, l1, hset, -, hl, hfields'⟩ := runStages_eq_ok_iff.1 hw
  simp only [List.length_append, List.length_cons, List.length_nil] at hj
  rcases Nat.lt_or_ge j (h ++ [Config.sep]).length with hpre | hpre
  · rw [List.set_append_left _ _ hpre] at hset
    obtain ⟨heq, hclose⟩ := List.append_inj' hset rfl
    obtain ⟨rfl, rfl⟩ : k0 = l0 ∧ k1 = l1 := by simpa using hclose
    rw [List.getElem?_append_left hpre] at hb
    rw [← heq, verify_set_eq_false hpre hb hk] at hl
    cases hl
  · obtain ⟨m, rfl⟩ := Nat.exists_eq_add_of_le hpre
    rw [List.set_append_right _ _ hpre, Nat.add_sub_cancel_left] at hset
    rw [List.getElem?_append_right hpre, Nat.add_sub_cancel_left] at hb ⊢
    obtain ⟨heq, hclose⟩ := List.append_inj' hset (by simp)
    obtain rfl := List.append_cancel_right heq
    simp only [List.length_append, List.length_cons, List.length_nil] at hj ⊢
    obtain ⟨hm, hcase⟩ := closing_bytes_set (by omega) hb hclose hk hl
    exact ⟨Except.ok.inj (hfields'.symm.trans hfields), by omega, by omega, hcase⟩

/-- A changed byte before the last separator that makes no terminator leaves the stages in place, and the field fails to verify. -/
theorem runStages_set_mismatch {α : Type} {fieldStage : Bytes → Except FrameFault α} {raw : Bytes} {j : Nat} {b : Byte} {v : α}
    (hj : j < raw.length - 3) (hb : raw[j]? ≠ some b) (hsep : raw[j]? ≠ some Config.sep) (hbterm : b ≠ Config.term)
    (hv : (runStages fieldStage raw).result = .ok v) :
    (runStages fieldStage (raw.set j b)).result = .error .checksumMismatch := by
  obtain ⟨h, k0, k1, rfl, hterm, hk, -⟩ := runStages_eq_ok_iff.1 hv
  simp only [List.length_append, List.length_cons, List.length_nil] at hj
  have hne : j ≠ h.length := fun heq => hsep (by simp [heq])
  have hh : j < h.length := by omega
  have hpre : j < (h ++ [Config.sep]).length := by rw [List.length_append]; exact Nat.lt_add_right 1 hh
  have hfield := (verify_eq_true_iff_parseHex2 _ _).1 hk
  have hseth : Config.term ∉ h.set j b := fun hmem => (List.mem_or_eq_of_mem_set hmem).elim hterm hbterm.symm
  have hverify : verify (h.set j b ++ [Config.sep]) [k0, k1] = false := by
    rw [List.getElem?_append_left hpre] at hb
    rw [← List.set_append_left _ _ hh]
    exact verify_set_eq_false hpre hb hk
  have hrun := runStages_of_mismatch fieldStage hseth (term_not_mem_of_parseHex2 hfield) (sep_not_mem_of_parseHex2 hfield) hverify
  rw [List.set_append_left _ _ hpre, List.set_append_left _ _ hh]
  simpa using congrArg DecodeRun.result hrun

/-- Settles O47: both decoders are `runStages` with a field stage of their own. -/
theorem oneChangedByteNeverDecodesOtherwise : Obligations.OneChangedByteNeverDecodesOtherwise :=
  fun _ _ _ hj hb => ⟨fun _ _ => runStages_set_ok hj hb, fun _ _ => runStages_set_ok hj hb, fun hbefore hsep _ hterm =>
    ⟨fun _ => runStages_set_mismatch hbefore hb hsep hterm, fun _ => runStages_set_mismatch hbefore hb hsep hterm⟩⟩

end Sys2Proof.Machine

/-! ## Host accesses to the buffers, unmapped accesses, and runs (R61, R62, R67, R203, R204, R251) -/

namespace Sys2Proof.Machine

/-! ### The buffers in the address map (R61) -/

/-- An ABUF cell of the capacity has an address of its own too, above FBUF's (R61). -/
theorem targetOf_abuf_address {c : Config} (hc : c.Wf) {i : Nat} (hi : i < c.argMax) :
    targetOf c (Buffer.abuf.address i) = some (.cell (Config.abufBase + i)) := by
  obtain ⟨-, hmax⟩ := hc
  have hcap : c.argMax = c.frameMax - 13 := rfl
  have ha : (Buffer.abuf.address i).toNat = Config.abufBase + i := by
    rw [Buffer.address, BitVec.toNat_ofNat]
    exact Nat.mod_eq_of_lt (by simp only [Buffer.base, Config.abufBase]; omega)
  rw [targetOf, ha, if_neg (by simp only [Config.abufBase]; omega),
    if_neg (by simp only [Config.abufBase, Config.fbufBase]; omega), if_pos (by omega)]

/-- An address in none of the three regions is unmapped. -/
theorem targetOf_eq_none {c : Config} {a : Word} (hreg : 0x0010 ≤ a.toNat)
    (hf : ¬ (0x1000 ≤ a.toNat ∧ a.toNat < 0x1000 + c.frameMax))
    (ha : ¬ (0x2000 ≤ a.toNat ∧ a.toNat < 0x2000 + (c.frameMax - 13))) : targetOf c a = none := by
  rw [targetOf, if_neg (Nat.not_lt.2 hreg), if_neg hf]
  exact if_neg ha

/-- An address from a buffer's base on names the cell when the buffer has it, and nothing else. The range of the index keeps FBUF's
addresses apart from ABUF's, and ABUF's within 16 bits. -/
theorem targetOf_buffer {c : Config} (hc : c.Wf) {b : Buffer} {i : Nat} (hf : b = .fbuf → i < 4096)
    (ha : b = .abuf → i < 0xE000) :
    targetOf c (BitVec.ofNat 16 (b.base + i)) = if i < b.size c then some (.cell (b.base + i)) else none := by
  have hcap : c.argMax = c.frameMax - 13 := rfl
  have hmax := hc.2
  cases b with
  | fbuf =>
    have hrange := hf rfl
    have haddr : (BitVec.ofNat 16 (0x1000 + i)).toNat = 0x1000 + i := Nat.mod_eq_of_lt (by omega)
    split_ifs with hi <;> rw [Buffer.size] at hi
    · exact targetOf_fbuf_address hc hi
    · apply targetOf_eq_none <;> rw [Buffer.base, haddr] <;> omega
  | abuf =>
    have hrange := ha rfl
    have haddr : (BitVec.ofNat 16 (0x2000 + i)).toNat = 0x2000 + i := Nat.mod_eq_of_lt (by omega)
    split_ifs with hi <;> rw [Buffer.size] at hi
    · exact targetOf_abuf_address hc hi
    · apply targetOf_eq_none <;> rw [Buffer.base, haddr] <;> omega

/-! ### One access: mapped, it answers; unmapped, it is refused (R67) -/

/-- The event is a host access to the address. -/
def Accesses (e : HostEvent) (a : Word) : Prop := e = .read a ∨ ∃ v, e = .write a v

theorem mapped_eq_false_iff {c : Config} {e : HostEvent} :
    HostEvent.mapped c e = false ↔ ∃ a, Accesses e a ∧ targetOf c a = none := by
  cases e with
  | read a => simp [Accesses, HostEvent.mapped]
  | write a v => simp [Accesses, HostEvent.mapped]
  | reset => simp [Accesses, HostEvent.mapped]

theorem applyEvent_of_unmapped {e : HostEvent} {a : Word} {s : State} (he : Accesses e a) (ha : targetOf s.cfg a = none) :
    applyEvent e s = .refused (.unmappedAccess a) := by
  rcases he with rfl | ⟨v, rfl⟩
  · simp only [applyEvent, hostRead, State.readValue, ha]
  · simp only [applyEvent, hostWrite, ha]

theorem applyEvent_of_mapped {e : HostEvent} {s : State} (he : HostEvent.mapped s.cfg e = true) :
    ∃ t, applyEvent e s = .next t ∧ t.cfg = s.cfg := by
  cases e with
  | read a =>
    rcases hostRead_cases a s with ⟨ha, -⟩ | ⟨r, -, heq⟩ | ⟨-, heq⟩
    · simp [HostEvent.mapped, ha] at he
    · exact ⟨_, heq, rfl⟩
    · exact ⟨_, heq, rfl⟩
  | write a v =>
    rcases hostWrite_cases a v s with ⟨ha, -⟩ | ⟨-, heq⟩ | ⟨r, -, -, heq⟩ | ⟨-, heq⟩
    · simp [HostEvent.mapped, ha] at he
    · obtain ⟨t, hrun, hcfg, -⟩ := runCommand_sameHostSide v { s with cmd := v, reply := .hostOk }
      exact ⟨t, heq.trans hrun, hcfg⟩
    · exact ⟨_, heq, s.writeReg_cfg v r⟩
    · exact ⟨_, heq, rfl⟩
  | reset => exact ⟨_, rfl, rfl⟩

/-- A refused access leaves the block as it was. -/
theorem afterEvent_of_refused {e : HostEvent} {s : State} {r : Refusal} (h : applyEvent e s = .refused r) :
    afterEvent e s = { s with reply := .hostErr } := by
  rw [afterEvent, h]

/-- Settles O6: an operation always answers, and a pending event either is mapped or is an access to an unmapped address. -/
theorem stepAnswersUnlessUnmapped : Obligations.StepAnswersUnlessUnmapped := by
  refine ⟨fun i s => ?_, fun s => ⟨fun hmapped => ?_, fun a v rest ha hin => ?_⟩⟩
  · obtain ⟨t, ht, -⟩ := exec_sameHostSide i s
    exact ⟨t, ht⟩
  · rcases hin : s.input with _ | ⟨e, rest⟩
    · exact ⟨s, step_of_idle hin⟩
    cases he : HostEvent.mapped s.cfg e with
    | true =>
      obtain ⟨t, ht, -⟩ := applyEvent_of_mapped (s := { s with input := rest }) he
      exact ⟨t, (step_of_pending hin).trans ht⟩
    | false =>
      obtain ⟨a, rfl | ⟨v, rfl⟩, ha⟩ := mapped_eq_false_iff.1 he
      · exact absurd hin (hmapped a 0#16 rest ha).1
      · exact absurd hin (hmapped a v rest ha).2
  · rcases hin with hin | hin
    · exact (step_of_pending hin).trans (applyEvent_of_unmapped (.inl rfl) ha)
    · exact (step_of_pending hin).trans (applyEvent_of_unmapped (.inr ⟨v, rfl⟩) ha)

/-! ### Buffer cells read and written by the host (R203, R204) -/

theorem step_read_buffer {s : State} {b : Buffer} {i : Nat} {rest : List HostEvent} (hc : s.cfg.Wf) (hf : b = .fbuf → i < 4096)
    (ha : b = .abuf → i < 0xE000) (hin : s.input = .read (BitVec.ofNat 16 (b.base + i)) :: rest) :
    step s = if i < b.size s.cfg then
        .next { s with input := rest, reply := .hostData (BitVec.setWidth 16 (s.cell (b.base + i))) }
      else .refused (.unmappedAccess (BitVec.ofNat 16 (b.base + i))) := by
  have htarget := targetOf_buffer hc hf ha
  rw [step_of_pending hin]
  split_ifs at htarget ⊢ with hi
  · simp only [applyEvent, hostRead, State.readValue, htarget]
    rfl
  · exact applyEvent_of_unmapped (.inl rfl) htarget

/-- Settles O15: the two buffers are read alike. -/
theorem bufferReadReturnsCell : Obligations.BufferReadReturnsCell :=
  fun _ _ _ hc =>
    ⟨fun hi hin => step_read_buffer (b := .fbuf) hc (fun _ => hi) (fun h => nomatch h) hin,
      fun hi hin => step_read_buffer (b := .abuf) hc (fun h => nomatch h) (fun _ => hi) hin⟩

/-- Settles O16: a mapped write lists the byte in its own cell, any other is refused. -/
theorem bufferWriteChangesOneCell : Obligations.BufferWriteChangesOneCell := by
  intro s b i v rest hc hf ha hin
  have htarget := targetOf_buffer hc hf ha
  rw [step_of_pending hin]
  refine ⟨fun hi => ?_, fun hi => ?_⟩
  · rw [if_pos hi] at htarget
    have hcell := s.cell_write (b.base + i) (v.setWidth 8)
    refine ⟨{ s with mem := s.mem.write (b.base + i) (v.setWidth 8), input := rest, reply := .hostOk },
      by simp only [applyEvent, hostWrite, htarget], rfl, ?_, fun a hne => ?_⟩
    · rw [← BitVec.setWidth_eq_extractLsb' (by decide)]
      exact (hcell _).trans (if_pos rfl)
    · exact (hcell a).trans (if_neg hne)
  · rw [if_neg (Nat.not_lt.2 hi)] at htarget
    refine ⟨applyEvent_of_unmapped (.inr ⟨v, rfl⟩) htarget, fun u hu => ?_⟩
    rw [← hu] at htarget
    exact afterEvent_of_refused (applyEvent_of_unmapped (.inr ⟨v, rfl⟩) htarget)

/-! ### Runs: a claim speaks of a script up to its first unmapped access (R67, R251) -/

theorem runScript_cons_of_refused {e : HostEvent} {s : State} {r : Refusal} (h : applyEvent e s = .refused r)
    (es : List HostEvent) : runScript (e :: es) s = .refused r := by
  rw [runScript, h]

/-- Settles O17. -/
theorem unmappedAccessIsRefused : Obligations.UnmappedAccessIsRefused := by
  intro s a v rest e _ hreg hf ha he
  have htarget := targetOf_eq_none hreg hf ha
  have haccess : Accesses e a := he.imp_right fun h => ⟨v, h⟩
  have hrefused := applyEvent_of_unmapped haccess htarget
  refine ⟨afterEvent_of_refused hrefused, by simp only [State.readValue, htarget], fun hin => ?_, fun before after s₀ hrun => ?_⟩
  · exact (step_of_pending hin).trans (applyEvent_of_unmapped haccess htarget)
  · have hstop := (runScript_append_of_next hrun (e :: after)).trans (runScript_cons_of_refused hrefused after)
    refine ⟨hstop, ?_⟩
    rintro ⟨t, ht⟩
    cases hstop.symm.trans ht

/-- A run answers exactly when each of its events does; no event changes the map. -/
theorem safeRun_iff_mapped (es : List HostEvent) (s : State) : SafeRun es s ↔ ∀ e ∈ es, HostEvent.mapped s.cfg e = true := by
  induction es generalizing s with
  | nil => exact ⟨fun _ _ h => absurd h List.not_mem_nil, fun _ => ⟨s, rfl⟩⟩
  | cons e es ih =>
    rw [List.forall_mem_cons]
    cases he : HostEvent.mapped s.cfg e with
    | true =>
      obtain ⟨t, ht, hcfg⟩ := applyEvent_of_mapped he
      rw [SafeRun, runScript_cons_of_next ht, ← hcfg]
      exact (ih t).trans ⟨fun h => ⟨rfl, h⟩, And.right⟩
    | false =>
      obtain ⟨a, haccess, ha⟩ := mapped_eq_false_iff.1 he
      simp [SafeRun, runScript_cons_of_refused (applyEvent_of_unmapped haccess ha)]

/-! ### Operations and accesses do not look at the accesses still pending (log 4) -/

/-- An outcome with the pending accesses replaced. -/
def withPending (es : List HostEvent) : StepResult → StepResult
  | .next t => .next { t with input := es }
  | .fault f => .fault f
  | .refused r => .refused r

@[simp] theorem State.frame_with_input (s : State) (es : List HostEvent) : ({ s with input := es } : State).frame = s.frame :=
  State.frame_congr rfl rfl rfl

theorem State.operand_congr {s t : State} (hm : t.mem = s.mem) (hd : t.draw = s.draw) (hl : t.alen = s.alen) :
    t.operand = s.operand := by
  rw [State.operand, State.operand, hl, State.cells_congr hm hd]

@[simp] theorem State.operand_with_input (s : State) (es : List HostEvent) :
    ({ s with input := es } : State).operand = s.operand :=
  State.operand_congr rfl rfl rfl

theorem applyEncoder_with_input (r : Except FrameFault Bytes) (s : State) (es : List HostEvent) :
    applyEncoder r { s with input := es } = { applyEncoder r s with input := es } := by
  cases r <;> rfl

theorem applyDecoder_with_input {α : Type} {deliver : α → State → State} {es : List HostEvent}
    (hdeliver : ∀ x s, deliver x { s with input := es } = { deliver x s with input := es }) (d : DecodeRun α) (s : State) :
    applyDecoder deliver d { s with input := es } = { applyDecoder deliver d s with input := es } := by
  obtain ⟨r, acc, passed⟩ := d
  cases r with
  | error f => rfl
  | ok x => exact congrArg State.complete (hdeliver x { s with acc := acc.getD s.acc })

theorem exec_with_input (i : Instr) (s : State) (es : List HostEvent) :
    exec i { s with input := es } = withPending es (exec i s) := by
  cases i with
  | nop | cclr | cacc => rfl
  | csum => simp [exec_csum, withPending]
  | cvfy => simp [exec_cvfy, withPending]
  | encq => simp [exec_encq, withPending, applyEncoder_with_input]
  | encok => simp [exec_encok, withPending, applyEncoder_with_input]
  | encer => simp [exec_encer, withPending, applyEncoder_with_input]
  | decr =>
    rw [exec_decr, exec_decr, State.frame_with_input, applyDecoder_with_input fun x s => by cases x <;> rfl]
    rfl
  | decq =>
    rw [exec_decq, exec_decq, State.frame_with_input, applyDecoder_with_input fun x s => rfl]
    rfl

theorem runCommand_with_input (v : Word) (s : State) (es : List HostEvent) :
    runCommand v { s with input := es } = withPending es (runCommand v s) := by
  cases h : decode v with
  | ok i => rw [runCommand_of_ok h, runCommand_of_ok h, exec_with_input]
  | error e =>
    rw [runCommand_of_error h, runCommand_of_error h]
    rfl

theorem State.readValue_with_input (s : State) (es : List HostEvent) (a : Word) :
    ({ s with input := es } : State).readValue a = s.readValue a := by
  simp only [State.readValue, State.readReg_with_input]
  rfl

theorem applyEvent_with_input (e : HostEvent) (s : State) (es : List HostEvent) :
    applyEvent e { s with input := es } = withPending es (applyEvent e s) := by
  cases e with
  | read a =>
    rw [applyEvent, applyEvent, hostRead, hostRead, State.readValue_with_input]
    cases s.readValue a <;> rfl
  | write a v =>
    cases h : targetOf s.cfg a with
    | none =>
      rw [applyEvent_of_unmapped (s := s) (.inr ⟨v, rfl⟩) h]
      exact applyEvent_of_unmapped (.inr ⟨v, rfl⟩) h
    | some target =>
      cases target with
      | cell k => simp only [applyEvent, hostWrite, h, withPending]
      | reg r =>
        cases r with
        | cmd =>
          simp only [applyEvent, hostWrite, h]
          exact runCommand_with_input v { s with cmd := v, reply := .hostOk } es
        | _ =>
          simp only [applyEvent, hostWrite, h, withPending]
          rfl
  | reset => rfl

theorem run_succ_of_next {M : Host.Core} {s t : M.State} (h : M.step s = .next t) (k : Nat) :
    M.run (k + 1) s = M.run k t := by
  rw [Host.Core.run, h]

theorem run_succ_of_refused {M : Host.Core} {s : M.State} {r : M.Refusal} (h : M.step s = .refused r) (k : Nat) :
    M.run (k + 1) s = .refused r := by
  rw [Host.Core.run, h]

theorem core_run_of_next {s t : State} (h : step s = .next t) (k : Nat) : core.run (k + 1) s = core.run k t :=
  run_succ_of_next (M := core) (s := s) (t := t) h k

theorem core_run_of_refused {s : State} {r : Refusal} (h : step s = .refused r) (k : Nat) :
    core.run (k + 1) s = .refused r :=
  run_succ_of_refused (M := core) (s := s) (r := r) h k

/-- The model's steps from a state with a script pending are the run of the script. -/
theorem core_run_eq_runScript (es more : List HostEvent) (s : State) :
    core.run es.length ({ s with input := es ++ more } : State) = runScript es ({ s with input := more } : State) := by
  induction es generalizing s with
  | nil => rfl
  | cons e es ih =>
    have hstep : step { s with input := e :: es ++ more } = withPending (es ++ more) (applyEvent e s) :=
      (step_of_pending rfl).trans (applyEvent_with_input e s _)
    have hevent := applyEvent_with_input e s more
    rcases happly : applyEvent e s with t | f | r <;> rw [happly] at hstep hevent
    · exact (core_run_of_next hstep _).trans ((ih t).trans (runScript_cons_of_next hevent es).symm)
    · exact nomatch f
    · exact (core_run_of_refused hstep _).trans (runScript_cons_of_refused hevent es).symm

/-! ### The block's own end state agrees with the run, and is composed of the parts' (R251) -/

theorem runEnd_of_runScript {es : List HostEvent} {s t : State} (h : runScript es s = .next t) : runEnd es s = t := by
  induction es generalizing s with
  | nil => exact Host.Outcome.next.inj h
  | cons e es ih =>
    rcases afterEvent_cases e s with hnext | ⟨r, hrefused, -⟩
    · exact ih ((runScript_cons_of_next hnext es).symm.trans h)
    · cases (runScript_cons_of_refused hrefused es).symm.trans h

theorem runEnd_append (es fs : List HostEvent) (s : State) : runEnd (es ++ fs) s = runEnd fs (runEnd es s) := by
  induction es generalizing s with
  | nil => rfl
  | cons e es ih => exact ih (afterEvent e s)

/-- Settles O7, by induction on the script clause by clause. -/
theorem runAppliesEventsInOrder : Obligations.RunAppliesEventsInOrder :=
  ⟨fun _ => ⟨rfl, rfl⟩, safeRun_iff_mapped, fun _ fs _ _ h => runScript_append_of_next h fs, core_run_eq_runScript,
    fun _ _ _ => runEnd_of_runScript, runEnd_append⟩

end Sys2Proof.Machine

/-! ## What the operations read: not the earlier results, and no cell outside the two current sequences (R40, R65, R252) -/

namespace Sys2Proof.Machine

/-! ### Earlier results: FAULT, FLAGS, ACC and the result registers (R40, R252) -/

/-- `s` with the fault, the flags, ACC and the result registers of `r`. -/
def State.withResults (s r : State) : State :=
  { s with
    fault := r.fault, flags := r.flags, acc := r.acc, raddr := r.raddr, rcode := r.rcode, rerr := r.rerr
    poff := r.poff, plen := r.plen }

@[simp] theorem State.withResults_frame (s r : State) : (s.withResults r).frame = s.frame := State.frame_congr rfl rfl rfl

@[simp] theorem State.withResults_operand (s r : State) : (s.withResults r).operand = s.operand :=
  State.operand_congr rfl rfl rfl

/-- From `s` and `s'` the states `t` and `t'` come out with the same buffers and fault, and with the same ACC, flags and results
where these were not kept. -/
def AgreeOrKept (s s' t t' : State) : Prop :=
  t.mem = t'.mem ∧ t.len = t'.len ∧ t.fault = t'.fault ∧
  (t.acc = t'.acc ∨ (t.acc = s.acc ∧ t'.acc = s'.acc)) ∧
  (t.flags.valid = t'.flags.valid ∨ (t.flags.valid = s.flags.valid ∧ t'.flags.valid = s'.flags.valid)) ∧
  (t.flags.matched = t'.flags.matched ∨ (t.flags.matched = s.flags.matched ∧ t'.flags.matched = s'.flags.matched)) ∧
  (t.flags.kind = t'.flags.kind ∨ (t.flags.kind = s.flags.kind ∧ t'.flags.kind = s'.flags.kind)) ∧
  ((t.raddr = t'.raddr ∧ t.rcode = t'.rcode ∧ t.rerr = t'.rerr ∧ t.poff = t'.poff ∧ t.plen = t'.plen) ∨
    (t.raddr = s.raddr ∧ t.rcode = s.rcode ∧ t.rerr = s.rerr ∧ t.poff = s.poff ∧ t.plen = s.plen ∧
      t'.raddr = s'.raddr ∧ t'.rcode = s'.rcode ∧ t'.rerr = s'.rerr ∧ t'.poff = s'.poff ∧ t'.plen = s'.plen))

/-- Writing FAULT alone keeps everything else. -/
theorem agreeOrKept_fault (s r : State) (f : FaultCode) :
    AgreeOrKept s (s.withResults r) { s with fault := f } { s.withResults r with fault := f } :=
  ⟨rfl, rfl, rfl, .inr ⟨rfl, rfl⟩, .inr ⟨rfl, rfl⟩, .inr ⟨rfl, rfl⟩, .inr ⟨rfl, rfl⟩,
    .inr ⟨rfl, rfl, rfl, rfl, rfl, rfl, rfl, rfl, rfl, rfl⟩⟩

/-- Writing ACC and FAULT keeps the flags and the results. -/
theorem agreeOrKept_acc (s r : State) (acc : Byte) :
    AgreeOrKept s (s.withResults r) { s with acc := acc, fault := .none } { s.withResults r with acc := acc, fault := .none } :=
  ⟨rfl, rfl, rfl, .inl rfl, .inr ⟨rfl, rfl⟩, .inr ⟨rfl, rfl⟩, .inr ⟨rfl, rfl⟩,
    .inr ⟨rfl, rfl, rfl, rfl, rfl, rfl, rfl, rfl, rfl, rfl⟩⟩

/-- An encoder that stores its frame keeps MATCH and writes the rest anew; one that faults writes FAULT alone. -/
theorem agreeOrKept_applyEncoder (e : Except FrameFault Bytes) (s r : State) :
    AgreeOrKept s (s.withResults r) (applyEncoder e s) (applyEncoder e (s.withResults r)) := by
  cases e with
  | error f => exact agreeOrKept_fault s r _
  | ok frame =>
    exact ⟨rfl, rfl, rfl, .inl rfl, .inl rfl, .inr ⟨rfl, rfl⟩, .inl rfl, .inl ⟨rfl, rfl, rfl, rfl, rfl⟩⟩

/-- A delivery that writes the flags and every result, so that nothing of the earlier ones is left but ACC and FAULT. -/
def Overwrites {α : Type} (deliver : α → State → State) : Prop :=
  ∀ x (s r : State) acc, { deliver x { s.withResults r with acc := acc } with fault := .none } =
    ({ deliver x s with acc := acc, fault := .none } : State)

theorem overwrites_deliverResponse : Overwrites deliverResponse := fun v _ _ _ => by cases v <;> rfl

theorem overwrites_deliverRequest : Overwrites deliverRequest := fun _ _ _ _ => rfl

/-- What a decoder operation leaves depends on the earlier results through ACC alone, which stays when stage 3 is not reached. -/
theorem applyDecoder_withResults {α : Type} {deliver : α → State → State} (hdeliver : Overwrites deliver) (d : DecodeRun α)
    (s r : State) :
    applyDecoder deliver d (s.withResults r) = { applyDecoder deliver d s with acc := d.acc.getD r.acc } := by
  obtain ⟨result, acc, passed⟩ := d
  cases result with
  | error f => rfl
  | ok x =>
    have hself := hdeliver x s s (acc.getD s.acc)
    exact (hdeliver x s r (acc.getD r.acc)).trans (congrArg (fun t : State => { t with acc := acc.getD r.acc }) hself).symm

theorem agreeOrKept_applyDecoder {α : Type} {deliver : α → State → State} (hdeliver : Overwrites deliver) (d : DecodeRun α)
    (s r : State) :
    AgreeOrKept s (s.withResults r) (applyDecoder deliver d s) (applyDecoder deliver d (s.withResults r)) := by
  have hacc : (applyDecoder deliver d s).acc = d.acc.getD s.acc := congrArg State.acc (applyDecoder_withResults hdeliver d s s)
  rw [applyDecoder_withResults hdeliver d s r]
  refine ⟨rfl, rfl, rfl, ?_, .inl rfl, .inl rfl, .inl rfl, .inl ⟨rfl, rfl, rfl, rfl, rfl⟩⟩
  cases hd : d.acc with
  | none => exact .inr ⟨by rw [hacc, hd]; rfl, rfl⟩
  | some acc => exact .inl (by rw [hacc, hd]; rfl)

/-- Settles O56: no operation but CACC reads a register of the earlier results, and what it does not write anew it keeps. -/
theorem resultsIgnoreEarlierResults : Obligations.ResultsIgnoreEarlierResults := by
  intro i s s' hi hs'
  obtain ⟨r, rfl⟩ : ∃ r, s' = s.withResults r := ⟨s', hs'⟩
  suffices ∃ t t', exec i s = .next t ∧ exec i (s.withResults r) = .next t' ∧ AgreeOrKept s (s.withResults r) t t' from this
  cases i with
  | cacc => exact absurd rfl hi
  | nop => exact ⟨_, _, exec_nop s, exec_nop _, agreeOrKept_fault s r .none⟩
  | cclr => exact ⟨_, _, exec_cclr s, exec_cclr _, agreeOrKept_acc s r _⟩
  | csum =>
    refine ⟨_, _, exec_csum s, exec_csum _, ?_⟩
    rw [s.withResults_frame r]
    exact agreeOrKept_acc s r _
  | cvfy =>
    refine ⟨_, _, exec_cvfy s, exec_cvfy _, ?_⟩
    rw [s.withResults_frame r]
    exact ⟨rfl, rfl, rfl, .inl rfl, .inr ⟨rfl, rfl⟩, .inl rfl, .inr ⟨rfl, rfl⟩,
      .inr ⟨rfl, rfl, rfl, rfl, rfl, rfl, rfl, rfl, rfl, rfl⟩⟩
  | encq =>
    refine ⟨_, _, exec_encq s, exec_encq _, ?_⟩
    rw [s.withResults_operand r]
    exact agreeOrKept_applyEncoder _ s r
  | encok =>
    refine ⟨_, _, exec_encok s, exec_encok _, ?_⟩
    rw [s.withResults_operand r]
    exact agreeOrKept_applyEncoder _ s r
  | encer => exact ⟨_, _, exec_encer s, exec_encer _, agreeOrKept_applyEncoder _ s r⟩
  | decr =>
    refine ⟨_, _, exec_decr s, exec_decr _, ?_⟩
    rw [s.withResults_frame r]
    exact agreeOrKept_applyDecoder overwrites_deliverResponse _ s r
  | decq =>
    refine ⟨_, _, exec_decq s, exec_decq _, ?_⟩
    rw [s.withResults_frame r]
    exact agreeOrKept_applyDecoder overwrites_deliverRequest _ s r

/-! ### Cells outside the current sequences (R65) -/

/-- `s` with the buffers of `r`, the unspecified bytes included. -/
def State.withBuffers (s r : State) : State := { s with mem := r.mem, draw := r.draw }

/-- Sequences of equal cells are equal. -/
theorem State.cells_eq_of_cell_eq {s t : State} {a n : Nat} (h : ∀ k, k < n → t.cell (a + k) = s.cell (a + k)) :
    t.cells a n = s.cells a n := by
  have hread := t.cells_eq_of_get a (s.cells a n) fun i b hb => by
    obtain ⟨hi, -⟩ := List.getElem?_eq_some_iff.1 hb
    rw [State.cells_length] at hi
    rw [h i hi]
    exact Option.some.inj ((s.cells_getElem? a n i hi).symm.trans hb)
  rwa [State.cells_length] at hread

/-- From `s` and from `s` with other buffers, states that agree in every register, and in every cell that was not kept. -/
def AgreeOutsideBuffers (s r t t' : State) : Prop :=
  t' = { t with mem := t'.mem, draw := r.draw } ∧
    ∀ a, t'.cell a = t.cell a ∨ (t.cell a = s.cell a ∧ t'.cell a = (s.withBuffers r).cell a)

/-- An operation that keeps the memory and does to the registers what it does with other buffers. -/
theorem agreeOutsideBuffers_of_mem {s t : State} (r : State) (hmem : t.mem = s.mem) (hdraw : t.draw = s.draw) :
    AgreeOutsideBuffers s r t (t.withBuffers r) :=
  ⟨rfl, fun a => .inr ⟨State.cell_congr hmem hdraw a, rfl⟩⟩

/-- The cells of a stored frame hold its bytes in both states, and the others are kept. -/
theorem agreeOutsideBuffers_applyEncoder (e : Except FrameFault Bytes) (s r : State) :
    AgreeOutsideBuffers s r (applyEncoder e s) (applyEncoder e (s.withBuffers r)) := by
  cases e with
  | error f => exact agreeOutsideBuffers_of_mem r rfl rfl
  | ok frame =>
    refine ⟨rfl, fun a => ?_⟩
    rcases Nat.lt_or_ge a Config.fbufBase with hlo | hlo
    · exact .inr ⟨s.storeFrame_cell_other frame a (.inl hlo), (s.withBuffers r).storeFrame_cell_other frame a (.inl hlo)⟩
    obtain ⟨i, rfl⟩ := Nat.exists_eq_add_of_le hlo
    rcases Nat.lt_or_ge i frame.length with hi | hi
    · have hbyte := List.getElem?_eq_getElem hi
      exact .inl (((s.withBuffers r).storeFrame_cell_get frame i _ hbyte).trans (s.storeFrame_cell_get frame i _ hbyte).symm)
    · have hout := Nat.add_le_add_left hi Config.fbufBase
      exact .inr ⟨s.storeFrame_cell_other frame _ (.inr hout), (s.withBuffers r).storeFrame_cell_other frame _ (.inr hout)⟩

/-- A delivery that neither reads nor writes the buffers. -/
def IgnoresBuffers {α : Type} (deliver : α → State → State) : Prop :=
  ∀ x (s r : State), deliver x (s.withBuffers r) = (deliver x s).withBuffers r

theorem ignoresBuffers_deliverResponse : IgnoresBuffers deliverResponse := fun v _ _ => by cases v <;> rfl

theorem ignoresBuffers_deliverRequest : IgnoresBuffers deliverRequest := fun _ _ _ => rfl

theorem applyDecoder_withBuffers {α : Type} {deliver : α → State → State} (hdeliver : IgnoresBuffers deliver)
    (d : DecodeRun α) (s r : State) :
    applyDecoder deliver d (s.withBuffers r) = (applyDecoder deliver d s).withBuffers r := by
  obtain ⟨result, acc, passed⟩ := d
  cases result with
  | error f => rfl
  | ok x => exact congrArg State.complete (hdeliver x { s with acc := acc.getD s.acc } r)

theorem agreeOutsideBuffers_applyDecoder {α : Type} {deliver : α → State → State} (hdeliver : IgnoresBuffers deliver)
    (d : DecodeRun α) (s r : State) :
    AgreeOutsideBuffers s r (applyDecoder deliver d s) (applyDecoder deliver d (s.withBuffers r)) := by
  have hmem := congrArg State.mem (applyDecoder_withBuffers hdeliver d s s)
  have hdraw := congrArg State.draw (applyDecoder_withBuffers hdeliver d s s)
  rw [applyDecoder_withBuffers hdeliver]
  exact agreeOutsideBuffers_of_mem r hmem hdraw

/-- Settles O57: an operation reads the buffers through the two current sequences alone. -/
theorem operationsReadCurrentSequencesOnly : Obligations.OperationsReadCurrentSequencesOnly := by
  intro i s s' hs' hfbuf habuf
  obtain ⟨r, rfl⟩ : ∃ r, s' = s.withBuffers r := ⟨s', hs'⟩
  have hframe : (s.withBuffers r).frame = s.frame := State.cells_eq_of_cell_eq hfbuf
  have hoperand : (s.withBuffers r).operand = s.operand := State.cells_eq_of_cell_eq habuf
  suffices ∃ t t', exec i s = .next t ∧ exec i (s.withBuffers r) = .next t' ∧ AgreeOutsideBuffers s r t t' from this
  cases i with
  | nop => exact ⟨_, _, exec_nop s, exec_nop _, agreeOutsideBuffers_of_mem r rfl rfl⟩
  | cclr => exact ⟨_, _, exec_cclr s, exec_cclr _, agreeOutsideBuffers_of_mem r rfl rfl⟩
  | cacc => exact ⟨_, _, exec_cacc s, exec_cacc _, agreeOutsideBuffers_of_mem r rfl rfl⟩
  | csum =>
    refine ⟨_, _, exec_csum s, exec_csum _, ?_⟩
    rw [hframe]
    exact agreeOutsideBuffers_of_mem r rfl rfl
  | cvfy =>
    refine ⟨_, _, exec_cvfy s, exec_cvfy _, ?_⟩
    rw [hframe]
    exact agreeOutsideBuffers_of_mem r rfl rfl
  | encq =>
    refine ⟨_, _, exec_encq s, exec_encq _, ?_⟩
    rw [hoperand]
    exact agreeOutsideBuffers_applyEncoder _ s r
  | encok =>
    refine ⟨_, _, exec_encok s, exec_encok _, ?_⟩
    rw [hoperand]
    exact agreeOutsideBuffers_applyEncoder _ s r
  | encer => exact ⟨_, _, exec_encer s, exec_encer _, agreeOutsideBuffers_applyEncoder _ s r⟩
  | decr =>
    refine ⟨_, _, exec_decr s, exec_decr _, ?_⟩
    rw [hframe]
    exact agreeOutsideBuffers_applyDecoder ignoresBuffers_deliverResponse _ s r
  | decq =>
    refine ⟨_, _, exec_decq s, exec_decq _, ?_⟩
    rw [hframe]
    exact agreeOutsideBuffers_applyDecoder ignoresBuffers_deliverRequest _ s r

end Sys2Proof.Machine
